-- ==== Sys2Proof/Word.lean ====
section
/-! DEFINITION. The words of the engine (spec/00_scope.md R4, R7): a byte, a lane, the command and status words,
the 25-lane state, the 136-byte block and the 32-byte digest. Bits are numbered by weight in all of them. -/

namespace Sys2Proof

/-- A byte is 8 bits in all three byte-indexed spaces (spec/20_memory.md R30). -/
abbrev Byte := BitVec 8

/-- One lane, 64 bits (spec/10_state.md R11). -/
abbrev Lane := BitVec 64

/-- The command word, 16 bits (spec/30_encoding.md R50). -/
abbrev CmdWord := BitVec 16

/-- The status word, 32 bits (spec/10_state.md R20). -/
abbrev StatusWord := BitVec 32

/-- The 25 lanes by linear index `x + 5*y` (spec/10_state.md R11). -/
abbrev Lanes := Vector Lane 25

/-- A data block `DIN[0..135]`, first byte of the message first (spec/20_memory.md R38). -/
abbrev Block := Vector Byte 136

/-- The 32 bytes of `OUT`, first byte of the digest first (spec/20_memory.md R39). -/
abbrev Digest := Vector Byte 32

end Sys2Proof
end

