-- ==== Sys2Proof/Syntax.lean ====
section
/-! DEFINITION. The instructions: one constructor per row of spec/opcode_table.json, and the operand types they need. -/

namespace Sys2Proof

/-- The four command faults (spec/60_exceptions.md R140). -/
inductive FaultCode where
  /-- the opcode field selects no command (R141) -/
  | illop
  /-- a must-be-zero field is not zero (R142) -/
  | rsvd
  /-- a well-formed command in a phase outside its allowed set (R143) -/
  | phase
  /-- FINAL with `len` above 135 in phase ABSORBING (R144) -/
  | len
  deriving DecidableEq, Repr

/-- The operand of HASH as the host's boundary sees it (spec/43_oneshot.md R124): a byte string, or a null buffer
with a length. A null buffer of length 0 is the empty message; with any other length it is outside the input space. -/
inductive MessageArg where
  | bytes (m : List Byte)
  | null (length : Nat)
  deriving DecidableEq, Repr

/-- The instructions. The first four are the host's commands and have an encoding (spec/30_encoding.md R51); the next
ten are micro-operations of the engine, without an encoding (R58); the last is the pseudo-instruction (R57).
A data block is the second operand of ABSORB and FINAL, not part of the command word (R53). -/
inductive Instr where
  /-- INIT (spec/42_sponge.md R101) -/
  | init
  /-- ABSORB of one full block (R102) -/
  | absorb (din : Block)
  /-- FINAL with its 8-bit `len`; 136 to 255 decode as FINAL and fault LEN (R103) -/
  | final (len : BitVec 8) (din : Block)
  /-- SQUEEZE (R104) -/
  | squeeze
  /-- THETA (spec/40_permutation.md R71) -/
  | theta
  /-- RHO (R72) -/
  | rho
  /-- PI (R74) -/
  | pi
  /-- CHI (R75) -/
  | chi
  /-- IOTA with its round index in 0..23 (R76) -/
  | iota (ir : Fin 24)
  /-- ROUND with its round index in 0..23 (R78) -/
  | round (ir : Fin 24)
  /-- PERMUTE (R79) -/
  | permute
  /-- PAD with a byte count in 0..135 and a block (spec/41_padding.md R90) -/
  | pad (n : Fin 136) (din : Block)
  /-- XORIN of a 136-byte block (spec/20_memory.md R36) -/
  | xorin (p : Block)
  /-- EXTRACT (R37) -/
  | extract
  /-- HASH of a message (spec/43_oneshot.md R120) -/
  | hash (arg : MessageArg)
  deriving DecidableEq, Repr

end Sys2Proof
end

