-- ==== Sys2Proof/WellFormed.lean ====
section
/-! DEFINITION. Which instructions are well formed. The bounds of the round index and of PAD's byte count are in
their types (log 8), so the one check left is HASH's boundary condition. -/

namespace Sys2Proof

/-- The message a HASH operand stands for: a null buffer of length 0 is the empty message, a null buffer with nonzero
length stands for none (spec/43_oneshot.md R124, spec/93_implementation_defined.md U3). -/
def MessageArg.message : MessageArg → Option (List Byte)
  | .bytes m => some m
  | .null 0 => some []
  | .null (_ + 1) => none

/-- Well-formedness: HASH's operand stands for a message. -/
def Instr.wellFormed : Instr → Bool
  | .hash arg => arg.message.isSome
  | .init | .absorb _ | .final _ _ | .squeeze => true
  | .theta | .rho | .pi | .chi | .iota _ | .round _ | .permute => true
  | .pad _ _ | .xorin _ | .extract => true

/-- The instructions the host can issue as one command word; micro-operations and HASH have no encoding
(spec/30_encoding.md R57, R58). -/
def Instr.isCommand : Instr → Bool
  | .init | .absorb _ | .final _ _ | .squeeze => true
  | .theta | .rho | .pi | .chi | .iota _ | .round _ | .permute => false
  | .pad _ _ | .xorin _ | .extract | .hash _ => false

end Sys2Proof
end

