-- ==== Sys2Proof/Decode.lean ====
section
/-! DEFINITION. The decoder of spec/30_encoding.md R55, total on every 16-bit word, and after it the encoder from
the same table (R50, R51). The data block travels beside the word on DIN (R53). -/

namespace Sys2Proof

/-- Bits [15:12], the opcode (spec/30_encoding.md R50). -/
def opField (cmd : CmdWord) : BitVec 4 := cmd.extractLsb' 12 4

/-- Bits [11:8], the reserved field, which must be zero (R50). -/
def rsvField (cmd : CmdWord) : BitVec 4 := cmd.extractLsb' 8 4

/-- Bits [7:0], the length field (R50). -/
def lenField (cmd : CmdWord) : BitVec 8 := cmd.extractLsb' 0 8

/-- A command without a length operand: `len` must be zero (R52). -/
def decodeNoLen (len : BitVec 8) (i : Instr) : Except FaultCode Instr :=
  if len = 0#8 then .ok i else .error .rsvd

/-- Decode of a command word with the block presented beside it (R55): the opcode is checked first, then the
reserved field, then the must-be-zero length; FINAL takes any length, its range is checked at execution. -/
def decode (cmd : CmdWord) (din : Block) : Except FaultCode Instr :=
  if opField cmd ∉ [1#4, 2#4, 3#4, 4#4] then .error .illop
  else if rsvField cmd ≠ 0#4 then .error .rsvd
  else if opField cmd = 1#4 then decodeNoLen (lenField cmd) .init
  else if opField cmd = 2#4 then decodeNoLen (lenField cmd) (.absorb din)
  else if opField cmd = 3#4 then .ok (.final (lenField cmd) din)
  else decodeNoLen (lenField cmd) .squeeze

/-- A command word from its three fields (R50). -/
def makeWord (op : BitVec 4) (rsv : BitVec 4) (len : BitVec 8) : CmdWord := op ++ rsv ++ len

/-- The word of INIT, 0x1000 (R51). -/
def initWord : CmdWord := makeWord 1#4 0#4 0#8

/-- The word of ABSORB, 0x2000 (R51). -/
def absorbWord : CmdWord := makeWord 2#4 0#4 0#8

/-- The word of FINAL, 0x3000 + len (R51). -/
def finalWord (len : BitVec 8) : CmdWord := makeWord 3#4 0#4 len

/-- The word of SQUEEZE, 0x4000 (R51). -/
def squeezeWord : CmdWord := makeWord 4#4 0#4 0#8

/-- The block the encoder lays on DIN for a command that ignores DIN (R53: anything would do). -/
def zeroBlock : Block := Vector.replicate 136 0#8

/-- The command word and the block on DIN of a command; none for what has no encoding (R57, R58). -/
def encode : Instr → Option (CmdWord × Block)
  | .init => some (initWord, zeroBlock)
  | .absorb din => some (absorbWord, din)
  | .final len din => some (finalWord len, din)
  | .squeeze => some (squeezeWord, zeroBlock)
  | .theta | .rho | .pi | .chi | .iota _ | .round _ | .permute => none
  | .pad _ _ | .xorin _ | .extract | .hash _ => none

/-- The command word a table word of `nbits` bits spells: bits at and above `nbits`, and above bit 15, are 0. -/
def tableWord (nbits w : Nat) : CmdWord := BitVec.ofNat 16 (w % 2 ^ nbits)

/-- The instruction the decoder reads from a table word of `nbits` bits, with a block of zeros on DIN (the table gives
the block no bits). -/
def decodeTableWord (nbits w : Nat) : Option Instr :=
  match decode (tableWord nbits w) zeroBlock with
  | .ok i => some i
  | .error _ => none

end Sys2Proof
end

