-- ==== Sys2Proof/Config.lean ====
section
/-! DEFINITION. The free values: values the spec leaves unspecified. They have no body, so nothing can be proved of
them and every claim holds whatever they are. Every other parameter of the engine is a constant of its rules
(spec/00_scope.md R4); the open parameters of R5 are read by no rule. -/

namespace Sys2Proof

/-- The 25 lanes after the reset that draws free value number `n` (spec/10_state.md R25: unspecified, not the same value
on two resets; log 4). -/
opaque Config.resetLanes : Nat → Lanes

/-- `OUT` after the reset that draws free value number `n` (spec/10_state.md R25; log 4). -/
opaque Config.resetOut : Nat → Digest

/-- What a read of OUT returns while `dv = 0`, for the read that draws free value number `n` (spec/10_state.md R19,
spec/93_implementation_defined.md U2; log 6). -/
opaque Config.undefinedOut : Nat → Digest

end Sys2Proof
end

