-- ==== Sys2Proof/Machine/State.lean ====
section
/-! DEFINITION. The state of the engine (spec/10_state.md R10), the host's side of the interface as plain data,
the reasons a step can stop, and the state after reset. -/

namespace Sys2Proof.Machine

/-- The controller's phase, 2 bits with all four values named (spec/10_state.md R14). -/
inductive Phase where
  | idle
  | absorbing
  | padded
  | done
  deriving DecidableEq, Repr

/-- What the host can do to the engine, one request at a time (spec/00_scope.md R6, spec/20_memory.md R43;
log 1). -/
inductive HostRequest where
  /-- write a word to CMD with a block on DIN (spec/10_state.md R20, spec/30_encoding.md R53) -/
  | command (cmd : CmdWord) (din : Block)
  /-- read STATUS (spec/10_state.md R20) -/
  | readStatus
  /-- read OUT (spec/10_state.md R19) -/
  | readOut
  /-- apply reset (spec/70_reset_and_hazards.md R160) -/
  | reset
  /-- apply reset while a command is executing: the command is abandoned (R160) -/
  | resetDuring (cmd : CmdWord) (din : Block)
  deriving DecidableEq, Repr

/-- The answer to a read of the host (log 3). -/
inductive HostRead where
  | status (w : StatusWord)
  | out (d : Digest)
  deriving DecidableEq, Repr

/-- Where the result of PAD or EXTRACT goes when it is executed on its own; no command touches it (log 7). -/
inductive MicroResult where
  | none
  /-- the padded block of PAD (spec/41_padding.md R90) -/
  | block (p : Block)
  /-- the 32-byte string of EXTRACT (spec/20_memory.md R37) -/
  | bytes (d : Digest)
  deriving DecidableEq, Repr

/-- The state. The first seven fields are the complete architectural state, 1879 bits (spec/10_state.md R10); the
other four are the model's own, for the host's side and for free values. -/
structure State where
  /-- the 25 lanes `A[x,y]` (R11) -/
  lanes : Lanes
  /-- the output buffer `OUT` (R19) -/
  out : Digest
  /-- the phase (R14) -/
  phase : Phase
  /-- digest valid (R15) -/
  dv : Bool
  /-- the sticky fault flag (R16) -/
  err : Bool
  /-- the code of the fault that set `err` (R17) -/
  errCode : BitVec 3
  /-- the word of the command that faulted (R18) -/
  errCmd : CmdWord
  /-- the host's requests not yet accepted, oldest first (log 1) -/
  requests : List HostRequest
  /-- what the host has read, oldest first (log 3) -/
  reads : List HostRead
  /-- how many free values have been drawn (log 5) -/
  freeCount : Nat
  /-- the result of a PAD or EXTRACT executed on its own (log 7) -/
  microResult : MicroResult
  deriving DecidableEq, Repr

/-- Faults that stop the machine: there are none. A command fault is recorded in `err`, `err_code` and `err_cmd` and
the engine goes on (spec/60_exceptions.md R146), the data path cannot fault (R153) and every command completes
(spec/70_reset_and_hazards.md R165); log 12. Nobody raises one; safe. -/
inductive Fault
  deriving DecidableEq, Repr

/-- Refusals. -/
inductive Refusal where
  /-- raised by an arm of `exec` for an instruction that has no meaning yet; safe -/
  | notModelled (mnemonic : String)
  /-- raised by HASH on a null buffer with nonzero length, which spec/93_implementation_defined.md U3 tells a model to
  refuse at its boundary (spec/43_oneshot.md R124); safe -/
  | nullBuffer (length : Nat)
  deriving DecidableEq, Repr

/-- The state after a reset that draws free value number `n` (spec/10_state.md R25): phase IDLE, the flags and the
fault record clear, the lanes and OUT unspecified. -/
def State.resetWith (n : Nat) (requests : List HostRequest) (reads : List HostRead) : State where
  lanes := Config.resetLanes n
  out := Config.resetOut n
  phase := .idle
  dv := false
  err := false
  errCode := 0
  errCmd := 0
  requests := requests
  reads := reads
  freeCount := n + 1
  microResult := .none

/-- The machine right after reset, with nothing requested yet. -/
def State.reset : State := State.resetWith 0 [] []

end Sys2Proof.Machine
end

