-- ==== Sys2Proof/Machine/Flags.lean ====
section
/-! DEFINITION. The controller's fields: the numbers of the phases and fault codes, the STATUS word, the phases each
command is accepted in, and FINAL's length check. The data path has no flags (spec/10_state.md R22). -/

namespace Sys2Proof.Machine

/-- The 2-bit value of a phase (spec/10_state.md R14). -/
def phaseBits : Phase → BitVec 2
  | .idle => 0
  | .absorbing => 1
  | .padded => 2
  | .done => 3

/-- The 3-bit code of a fault (spec/60_exceptions.md R140). -/
def faultBits : FaultCode → BitVec 3
  | .illop => 1
  | .rsvd => 2
  | .phase => 3
  | .len => 4

/-- The STATUS word (spec/10_state.md R20), high bits first: `err_cmd`, eight reserved zeros, `busy` (0 in a model of
atomic commands), `err_code`, `err`, `dv`, `phase`. -/
def statusWord (s : State) : StatusWord :=
  s.errCmd ++ 0#8 ++ 0#1 ++ s.errCode ++ BitVec.ofBool s.err ++ BitVec.ofBool s.dv ++ phaseBits s.phase

/-- `Allowed(INIT)`: every phase (spec/42_sponge.md R105). -/
def initAllowed : List Phase := [.idle, .absorbing, .padded, .done]

/-- `Allowed(ABSORB)` and `Allowed(FINAL)` (R105). -/
def absorbAllowed : List Phase := [.absorbing]

/-- `Allowed(SQUEEZE)` (R105). -/
def squeezeAllowed : List Phase := [.padded]

/-- FINAL's range check: `len` is at most 135, compared unsigned (spec/30_encoding.md R52, spec/60_exceptions.md
R144). -/
def finalLenOk (len : BitVec 8) : Bool := decide (len.toNat ≤ 135)

end Sys2Proof.Machine
end

