-- ==== Sys2Proof/Machine/Operands.lean ====
section
/-! DEFINITION. Addressing (spec/10_state.md R11, R12; spec/20_memory.md R31 to R39): the lane at a grid coordinate,
the flat byte view of the lanes, the 64-bit value of eight bytes, and the wide-value layouts of DIN and OUT. -/

namespace Sys2Proof.Machine

/-- The vector with value `f i` at each index `i`. (Irreducible so that comparing two states never computes a vector; its
lemma `getElem_tabulate` says what it is.) -/
@[irreducible] def tabulate {α : Type} {n : Nat} (f : Fin n → α) : Vector α n := Vector.ofFn f

/-- The lane `A[x,y]`, at linear index `x + 5*y` (spec/10_state.md R11). Coordinates are `Fin 5`, so their
arithmetic is modulo 5 (R12). -/
def laneAt (A : Lanes) (x y : Fin 5) : Lane := A[x.val + 5 * y.val]

/-- The lanes given by a value for each grid coordinate, "for all (x,y)" of spec/00_scope.md R9, in the order of the
linear index. -/
def ofGrid (f : Fin 5 → Fin 5 → Lane) : Lanes :=
  #v[f 0 0, f 1 0, f 2 0, f 3 0, f 4 0,
     f 0 1, f 1 1, f 2 1, f 3 1, f 4 1,
     f 0 2, f 1 2, f 2 2, f 3 2, f 4 2,
     f 0 3, f 1 3, f 2 3, f 3 3, f 4 3,
     f 0 4, f 1 4, f 2 4, f 3 4, f 4 4]

/-- Byte `i` of the flat 200-byte view `SB` (spec/20_memory.md R31): bits `8*(i mod 8) + 7` down to `8*(i mod 8)` of
lane `floor(i / 8)`. -/
def sbByte (A : Lanes) (i : Fin 200) : Byte := A[i.val / 8].extractLsb' (8 * (i.val % 8)) 8

/-- `LE64(b0, ..., b7)` (spec/00_scope.md R9): the byte with the lower index holds the less significant bits. -/
def le64 (b : Fin 8 → Byte) : Lane := b 7 ++ b 6 ++ b 5 ++ b 4 ++ b 3 ++ b 2 ++ b 1 ++ b 0

/-- `LE64(P[8j], ..., P[8j+7])` of a block (spec/20_memory.md R36). -/
def blockLane (p : Block) (j : Fin 17) : Lane := le64 fun b => p[8 * j.val + b.val]

/-- The block carried on one wide value `din`: `DIN[i]` is `din[8i+7 : 8i]` (spec/20_memory.md R38). -/
def blockOfWide (din : BitVec 1088) : Block := tabulate fun i => din.extractLsb' (8 * i.val) 8

/-- Bytes read as one wide value, byte `i` at bits `8i+7` down to `8i`. -/
def wideOfBytes : List Byte → Nat
  | [] => 0
  | b :: bs => b.toNat + 256 * wideOfBytes bs

/-- `OUT` read as one wide value `dout`: `OUT[i]` is `dout[8i+7 : 8i]` (spec/20_memory.md R39). -/
def wideOfDigest (d : Digest) : BitVec 256 := BitVec.ofNat 256 (wideOfBytes d.toList)

/-- XORIN (spec/20_memory.md R36): the block's lanes are XORed into lanes 0 to 16, lanes 17 to 24 stay. -/
def xorin (A : Lanes) (p : Block) : Lanes :=
  tabulate fun j => if h : j.val < 17 then A[j] ^^^ blockLane p ⟨j.val, h⟩ else A[j]

/-- EXTRACT (spec/20_memory.md R37): `SB[0..31]`. -/
def extract (A : Lanes) : Digest := tabulate fun i => sbByte A ⟨i.val, by omega⟩

/-- The all-zero lanes, which INIT writes (spec/42_sponge.md R101). -/
def zeroLanes : Lanes := Vector.replicate 25 0#64

end Sys2Proof.Machine
end

