-- ==== Sys2Proof/Machine/Ops.lean ====
section
/-! DEFINITION. The named operations on the state: taking a command fault, the acceptance of a command, reset, the
host's reads, and the fetch of the next request. -/

namespace Sys2Proof.Machine

/-- Replace the lanes. -/
def State.setLanes (s : State) (A : Lanes) : State := { s with lanes := A }

/-- Replace the host's pending requests. -/
def State.setRequests (s : State) (rs : List HostRequest) : State := { s with requests := rs }

/-- Put the result of a micro-operation executed on its own where it can be read (log 7). -/
def State.setMicroResult (s : State) (r : MicroResult) : State := { s with microResult := r }

/-- The host has read `r` (log 3). -/
def State.addRead (s : State) (r : HostRead) : State := { s with reads := s.reads ++ [r] }

/-- One more free value has been drawn (log 5). -/
def State.drawFree (s : State) : State := { s with freeCount := s.freeCount + 1 }

/-- Taking a command fault (spec/60_exceptions.md R146): `err`, `err_code` and `err_cmd` are written and nothing
else. There is no handler, no vector and no return (R147). -/
def State.takeFault (s : State) (c : FaultCode) (cmd : CmdWord) : State :=
  { s with err := true, errCode := faultBits c, errCmd := cmd }

/-- The acceptance of a decoded command (spec/42_sponge.md R100): dropped while `err = 1`, then the phase check, then
the length check, then the command is performed. -/
def acceptCommand (allowed : List Phase) (lenOk : Bool) (word : CmdWord) (perform : State → State) (s : State) : State :=
  if s.err then s
  else if s.phase ∉ allowed then s.takeFault .phase word
  else if lenOk = false then s.takeFault .len word
  else perform s

/-- Reset (spec/70_reset_and_hazards.md R160): the reset values of spec/10_state.md R25, with a fresh free value for
the lanes and `OUT`; what the host still means to do, and what it has read, are the host's. -/
def State.applyReset (s : State) : State := State.resetWith s.freeCount s.requests s.reads

/-- The host reads STATUS (spec/10_state.md R20): no side effect on the engine. -/
def State.answerStatus (s : State) : State := s.addRead (.status (statusWord s))

/-- The host reads OUT (spec/10_state.md R19): its content while `dv = 1`, otherwise a value the spec does not define,
a fresh free value for each read (log 6). -/
def State.answerOut (s : State) : State :=
  if s.dv then s.addRead (.out s.out)
  else (s.addRead (.out (Config.undefinedOut s.freeCount))).drawFree

/-- What a step finds to do: a request settled without executing an instruction, or an instruction to execute. -/
inductive Fetched where
  | settled (s : State)
  | run (i : Instr) (s : State)
  deriving DecidableEq, Repr

/-- A command word arrives with its block (spec/42_sponge.md R100): dropped undecoded while `err = 1`
(spec/60_exceptions.md R147), a fault if it decodes to none, otherwise the instruction is to be executed. -/
def receive (cmd : CmdWord) (din : Block) (s : State) : Fetched :=
  if s.err then .settled s
  else
    match decode cmd din with
    | .error c => .settled (s.takeFault c cmd)
    | .ok i => .run i s

/-- Serve one request of the host. -/
def serve (r : HostRequest) (s : State) : Fetched :=
  match r with
  | .command cmd din => receive cmd din s
  | .readStatus => .settled s.answerStatus
  | .readOut => .settled s.answerOut
  | .reset => .settled s.applyReset
  | .resetDuring _ _ => .settled s.applyReset

/-- Take the host's oldest request; with none pending the engine does nothing (log 2). -/
def fetch (s : State) : Fetched :=
  match s.requests with
  | [] => .settled s
  | r :: rs => serve r (s.setRequests rs)

/-- The word is presented, with a block of zeros on DIN, ahead of everything the host has pending. -/
def State.present (s : State) (cmd : CmdWord) (din : Block) : State := s.setRequests (.command cmd din :: s.requests)

end Sys2Proof.Machine
end

