-- ==== Sys2Proof/Machine/DataMovement.lean ====
section
/-! DEFINITION. The meanings of the two data movements executed on their own: XORIN (spec/20_memory.md R36) and
EXTRACT (R37). The functions stand in Operands.lean. -/

namespace Sys2Proof.Machine

/-- XORIN executed on its own: the block is XORed into the rate region (log 7). -/
def execXorin (p : Block) (s : State) : Host.Outcome State Fault Refusal := .next (s.setLanes (xorin s.lanes p))

/-- EXTRACT executed on its own: its result is the 32-byte string; the lanes and `OUT` stay (log 7). -/
def execExtract (s : State) : Host.Outcome State Fault Refusal := .next (s.setMicroResult (.bytes (extract s.lanes)))

end Sys2Proof.Machine
end

