-- ==== Sys2Proof/Machine/Padding.lean ====
section
/-! DEFINITION. The padder (spec/41_padding.md) and the meaning of PAD executed on its own. -/

namespace Sys2Proof.Machine

/-- PAD (R90): the first `n` bytes of the block, zeros after them, then 0x01 XORed into byte `n` and 0x80 into byte
135. Its callers give it `n` in 0..135. -/
def padBlock (din : Block) (n : Nat) : Block :=
  tabulate fun i =>
    (if i.val < n then din[i] else 0x00#8) ^^^ (if i.val = n then 0x01#8 else 0x00#8)
      ^^^ (if i.val = 135 then 0x80#8 else 0x00#8)

/-- PAD executed on its own: its result is the padded block (log 7). -/
def execPad (n : Fin 136) (din : Block) (s : State) : Host.Outcome State Fault Refusal :=
  .next (s.setMicroResult (.block (padBlock din n.val)))

end Sys2Proof.Machine
end

