-- ==== Sys2Proof/Machine/Permutation.lean ====
section
/-! DEFINITION. The permutation (spec/40_permutation.md): the five step mappings, the two tables, the round and
PERMUTE, and the meanings of the seven micro-operations. None sets a flag and none can fault (R153); executed on its
own, each replaces the lanes and nothing else (log 7). -/

namespace Sys2Proof.Machine

/-- The column parity `C[x]` (R71). -/
def columnParity (A : Lanes) (x : Fin 5) : Lane :=
  laneAt A x 0 ^^^ laneAt A x 1 ^^^ laneAt A x 2 ^^^ laneAt A x 3 ^^^ laneAt A x 4

/-- `D[x]`: the parity of the left neighbour and the rotated parity of the right one (R71). -/
def thetaMix (A : Lanes) (x : Fin 5) : Lane := columnParity A (x - 1) ^^^ (columnParity A (x + 1)).rotateLeft 1

/-- THETA (R71). -/
def thetaStep (A : Lanes) : Lanes := ofGrid fun x y => laneAt A x y ^^^ thetaMix A x

/-- The rotation offsets by linear index (R73; log 11). -/
def rhoTable : Vector Nat 25 :=
  #v[0, 1, 62, 28, 27,
     36, 44, 6, 55, 20,
     3, 10, 43, 25, 39,
     41, 45, 15, 21, 8,
     18, 2, 61, 56, 14]

/-- `RHO[x,y]` (R73). -/
def rhoOffset (x y : Fin 5) : Nat := rhoTable[x.val + 5 * y.val]

/-- RHO (R72). -/
def rhoStep (A : Lanes) : Lanes := ofGrid fun x y => (laneAt A x y).rotateLeft (rhoOffset x y)

/-- PI as a gather: `A'[x,y] = A[x + 3y, x]` (R74). -/
def piStep (A : Lanes) : Lanes := ofGrid fun x y => laneAt A (x + 3 * y) x

/-- CHI (R75). -/
def chiStep (A : Lanes) : Lanes :=
  ofGrid fun x y => laneAt A x y ^^^ (~~~(laneAt A (x + 1) y) &&& laneAt A (x + 2) y)

/-- The round constants as R77 prints them, twelve rows of two: row `r` holds `RC[r]` and `RC[r + 12]` (log 11). -/
def rcRows : Vector (Lane × Lane) 12 :=
  #v[(0x0000000000000001, 0x000000008000808B),
     (0x0000000000008082, 0x800000000000008B),
     (0x800000000000808A, 0x8000000000008089),
     (0x8000000080008000, 0x8000000000008003),
     (0x000000000000808B, 0x8000000000008002),
     (0x0000000080000001, 0x8000000000000080),
     (0x8000000080008081, 0x000000000000800A),
     (0x8000000000008009, 0x800000008000000A),
     (0x000000000000008A, 0x8000000080008081),
     (0x0000000000000088, 0x8000000000008080),
     (0x0000000080008009, 0x0000000080000001),
     (0x000000008000000A, 0x8000000080008008)]

/-- `RC[ir]` (R77): rounds 0 to 11 are the left column, rounds 12 to 23 the right one. -/
def roundConstant (ir : Fin 24) : Lane :=
  if h : ir.val < 12 then rcRows[ir.val].1 else rcRows[ir.val - 12].2

/-- IOTA (R76): only `A[0,0]` changes. -/
def iotaStep (A : Lanes) (ir : Fin 24) : Lanes :=
  ofGrid fun x y => if x = 0 ∧ y = 0 then laneAt A x y ^^^ roundConstant ir else laneAt A x y

/-- ROUND (R78): theta, rho, pi, chi, iota in that order. -/
def roundStep (A : Lanes) (ir : Fin 24) : Lanes := iotaStep (chiStep (piStep (rhoStep (thetaStep A)))) ir

/-- PERMUTE (R79): rounds 0 to 23 in increasing order. (Irreducible so that comparing two states never unfolds 24
rounds; its equation says what it is.) -/
@[irreducible] def permute (A : Lanes) : Lanes := (List.finRange 24).foldl roundStep A

/-- THETA executed on its own. -/
def execTheta (s : State) : Host.Outcome State Fault Refusal := .next (s.setLanes (thetaStep s.lanes))

/-- RHO executed on its own. -/
def execRho (s : State) : Host.Outcome State Fault Refusal := .next (s.setLanes (rhoStep s.lanes))

/-- PI executed on its own. -/
def execPi (s : State) : Host.Outcome State Fault Refusal := .next (s.setLanes (piStep s.lanes))

/-- CHI executed on its own. -/
def execChi (s : State) : Host.Outcome State Fault Refusal := .next (s.setLanes (chiStep s.lanes))

/-- IOTA executed on its own. -/
def execIota (ir : Fin 24) (s : State) : Host.Outcome State Fault Refusal := .next (s.setLanes (iotaStep s.lanes ir))

/-- ROUND executed on its own. -/
def execRound (ir : Fin 24) (s : State) : Host.Outcome State Fault Refusal := .next (s.setLanes (roundStep s.lanes ir))

/-- PERMUTE executed on its own. -/
def execPermute (s : State) : Host.Outcome State Fault Refusal := .next (s.setLanes (permute s.lanes))

end Sys2Proof.Machine
end

