-- ==== Sys2Proof/Machine/Sponge.lean ====
section
/-! DEFINITION. The four host commands (spec/42_sponge.md): what each performs when it is accepted, the command with
its acceptance (R100), and its meaning. A command always ends in a next state: executed, faulted or dropped. -/

namespace Sys2Proof.Machine

/-- Absorb one 136-byte block: XOR it in, then apply the permutation once (R102, R106). -/
def absorbBlock (A : Lanes) (p : Block) : Lanes := permute (xorin A p)

/-- What INIT does when it is accepted (R101). -/
def performInit (s : State) : State :=
  { s with lanes := zeroLanes, phase := .absorbing, dv := false }

/-- What ABSORB does when it is accepted (R102). -/
def performAbsorb (din : Block) (s : State) : State := { s with lanes := absorbBlock s.lanes din }

/-- What FINAL does when it is accepted (R103). -/
def performFinal (len : BitVec 8) (din : Block) (s : State) : State :=
  { s with lanes := absorbBlock s.lanes (padBlock din len.toNat), phase := .padded }

/-- What SQUEEZE does when it is accepted (R104). -/
def performSqueeze (s : State) : State :=
  { s with out := extract s.lanes, phase := .done, dv := true }

/-- The command INIT with its acceptance. -/
def initCommand (s : State) : State := acceptCommand initAllowed true initWord performInit s

/-- The command ABSORB with its acceptance. -/
def absorbCommand (din : Block) (s : State) : State :=
  acceptCommand absorbAllowed true absorbWord (performAbsorb din) s

/-- The command FINAL with its acceptance; the length check comes after the phase check (R103). -/
def finalCommand (len : BitVec 8) (din : Block) (s : State) : State :=
  acceptCommand absorbAllowed (finalLenOk len) (finalWord len) (performFinal len din) s

/-- The command SQUEEZE with its acceptance. -/
def squeezeCommand (s : State) : State := acceptCommand squeezeAllowed true squeezeWord performSqueeze s

/-- INIT (R101). -/
def execInit (s : State) : Host.Outcome State Fault Refusal := .next (initCommand s)

/-- ABSORB (R102). -/
def execAbsorb (din : Block) (s : State) : Host.Outcome State Fault Refusal := .next (absorbCommand din s)

/-- FINAL (R103). -/
def execFinal (len : BitVec 8) (din : Block) (s : State) : Host.Outcome State Fault Refusal :=
  .next (finalCommand len din s)

/-- SQUEEZE (R104). -/
def execSqueeze (s : State) : Host.Outcome State Fault Refusal := .next (squeezeCommand s)

end Sys2Proof.Machine
end

