-- ==== Sys2Proof/Machine/OneShot.lean ====
section
/-! DEFINITION. The one-shot hash (spec/43_oneshot.md): the function Keccak256 (R121), the expansion of HASH into
commands (R120), and the meaning of HASH. -/

namespace Sys2Proof.Machine

/-- `k = floor(L / 136)`, the number of full blocks of the message (R121). -/
def fullBlocks (m : List Byte) : Nat := m.length / 136

/-- `n = L mod 136`, the number of message bytes in the last block (R121). -/
def tailLength (m : List Byte) : BitVec 8 := BitVec.ofNat 8 (m.length % 136)

/-- Block `j` of the message, `DIN[i] = M[136j + i]`; bytes beyond the message's end are those of `fill`, since the
spec says "anything" there (R120; log 10). -/
def messageBlock (fill : Block) (m : List Byte) (j : Nat) : Block :=
  tabulate fun i => m.getD (136 * j + i.val) fill[i]

/-- The full blocks of the message, in order. -/
def messageBlocks (fill : Block) (m : List Byte) : List Block :=
  (List.range (fullBlocks m)).map (messageBlock fill m)

/-- The lanes after absorbing blocks in order from the all-zero state (R121: `A_0`, `A_1`, ...). -/
def absorbAll (bs : List Block) : Lanes := bs.foldl absorbBlock zeroLanes

/-- `Keccak256(M)` (R121). -/
def keccak256 (m : List Byte) : Digest :=
  extract (absorbBlock (absorbAll (messageBlocks zeroBlock m))
    (padBlock (messageBlock zeroBlock m (fullBlocks m)) (m.length % 136)))

/-- The padding of a message that leaves `r` bytes free in its last block, `r` in 1..136: one free byte is 0x81; more
are 0x01, zeros and 0x80 (spec/41_padding.md R90, R91). -/
def padBytes (r : Nat) : List Byte :=
  if r = 1 then [0x81#8] else [0x01#8] ++ List.replicate (r - 2) 0x00#8 ++ [0x80#8]

/-- The padded stream: the message's bytes, then the padding (spec/00_scope.md glossary, spec/41_padding.md R93). A
block-aligned message gets a whole block of padding. -/
def paddedStream (m : List Byte) : List Byte := m ++ padBytes (136 - m.length % 136)

/-- The commands HASH M expands to (R120). -/
def hashCommands (fill : Block) (m : List Byte) : List Instr :=
  [.init] ++ (messageBlocks fill m).map .absorb
    ++ [.final (tailLength m) (messageBlock fill m (fullBlocks m)), .squeeze]

/-- The requests a host makes for a list of instructions: each command's word with its block on DIN. -/
def requestsOf (is : List Instr) : List HostRequest :=
  (is.filterMap encode).map fun c => .command c.1 c.2

/-- The command sequence of HASH M carried out on the engine, with no other command between (R120, R122). -/
def runHash (fill : Block) (m : List Byte) (s : State) : State :=
  squeezeCommand (finalCommand (tailLength m) (messageBlock fill m (fullBlocks m))
    ((messageBlocks fill m).foldl (fun t b => absorbCommand b t) (initCommand s)))

/-- HASH (R120): the whole sequence for the message its operand stands for; a null buffer with nonzero length stands
for none and is refused before any command is issued (R124, spec/93_implementation_defined.md U3; log 9). -/
def execHash (arg : MessageArg) (s : State) : Host.Outcome State Fault Refusal :=
  match arg with
  | .bytes m => .next (runHash zeroBlock m s)
  | .null 0 => .next (runHash zeroBlock [] s)
  | .null (n + 1) => .refused (.nullBuffer (n + 1))

end Sys2Proof.Machine
end

