-- ==== Sys2Proof/Machine/Dispatch.lean ====
section
/-! DEFINITION. The dispatch: one arm per constructor of Instr. -/

namespace Sys2Proof.Machine

def exec (i : Instr) (s : State) : Host.Outcome State Fault Refusal :=
  match i with
  | .init => Sys2Proof.Machine.execInit s
  | .absorb din => Sys2Proof.Machine.execAbsorb din s
  | .final len din => Sys2Proof.Machine.execFinal len din s
  | .squeeze => Sys2Proof.Machine.execSqueeze s
  | .theta => Sys2Proof.Machine.execTheta s
  | .rho => Sys2Proof.Machine.execRho s
  | .pi => Sys2Proof.Machine.execPi s
  | .chi => Sys2Proof.Machine.execChi s
  | .iota ir => Sys2Proof.Machine.execIota ir s
  | .round ir => Sys2Proof.Machine.execRound ir s
  | .permute => Sys2Proof.Machine.execPermute s
  | .pad n din => Sys2Proof.Machine.execPad n din s
  | .xorin p => Sys2Proof.Machine.execXorin p s
  | .extract => Sys2Proof.Machine.execExtract s
  | .hash arg => Sys2Proof.Machine.execHash arg s

end Sys2Proof.Machine
end

