-- ==== Sys2Proof/Machine/Step.lean ====
section
/-! DEFINITION. One step: take the host's oldest request and serve it, executing the instruction it decodes to. -/

namespace Sys2Proof.Machine

/-- One step of the engine with its host (spec/00_scope.md R6, spec/20_memory.md R43). -/
def step (s : State) : Host.Outcome State Fault Refusal :=
  match fetch s with
  | .settled t => .next t
  | .run i t => exec i t

/-- The state with a table word presented on CMD, a block of zeros on DIN, as the host's next request, so that the very
next step receives it (log 1). -/
def State.withFetchWord (s : State) (nbits w : Nat) : State := s.present (tableWord nbits w) zeroBlock

end Sys2Proof.Machine
end

