-- ==== Sys2Proof/Machine/TableOrigin.lean ====
section
/-! DEFINITION. The procedures that regenerate the two tables (spec/40_permutation.md R81, R82). The hardware does not
run them; they are what the tables are checked against. -/

namespace Sys2Proof.Machine

/-- The walk of R81: `(1,0)`, then `(x,y)` is replaced by `(y, 2x + 3y)`. -/
def rhoWalk : Nat → Fin 5 × Fin 5
  | 0 => (1, 0)
  | t + 1 => ((rhoWalk t).2, 2 * (rhoWalk t).1 + 3 * (rhoWalk t).2)

/-- One step of the register of R82, bit `i` being `R[i]`: a 0 is prepended, and the bit pushed out to `R[8]` is XORed
into `R[0]`, `R[4]`, `R[5]` and `R[6]`. -/
def lfsrStep (r : BitVec 8) : BitVec 8 := (r <<< 1) ^^^ (if r.getLsbD 7 then 0x71#8 else 0#8)

/-- The register after `t` steps from `R = 1,0,0,0,0,0,0,0` (R82). -/
def lfsrAfter : Nat → BitVec 8
  | 0 => 1#8
  | t + 1 => lfsrStep (lfsrAfter t)

/-- The bit sequence `rc(t)` (R82). -/
def rcBit (t : Nat) : Bool := if t % 255 = 0 then true else (lfsrAfter (t % 255)).getLsbD 0

/-- The round constant R82 generates for round `ir`: bit `2^j - 1` is `rc(j + 7*ir)` for `j` in 0..6, the others 0. -/
def rcGenerated (ir : Nat) : Lane :=
  (List.range 7).foldl (fun v j => if rcBit (j + 7 * ir) then v ||| (1#64 <<< (2 ^ j - 1)) else v) 0#64

end Sys2Proof.Machine
end

