-- ==== Sys2Proof/Safety.lean ====
section
/-! DEFINITION. The terms the claims use: the controller's invariant, which states are the same engine, what the host
can tell apart, the history of absorbed blocks, and when there is a digest. -/

namespace Sys2Proof.Machine

/-- The controller's invariant (spec/10_state.md R26 (a) and (b), R17, R18): `dv = 1` exactly in DONE, `err_code` is 0
exactly while `err = 0` and never above 4, `err_cmd` is 0 while `err = 0`. -/
def State.Consistent (s : State) : Prop :=
  (s.dv = true ↔ s.phase = .done) ∧ (s.err = false ↔ s.errCode = 0) ∧ s.errCode.toNat ≤ 4 ∧
    (s.err = false → s.errCmd = 0)

/-- Two states of the same engine: all seven pieces of architectural state are equal (spec/10_state.md R10). -/
def SameEngine (s t : State) : Prop :=
  s.lanes = t.lanes ∧ s.out = t.out ∧ s.phase = t.phase ∧ s.dv = t.dv ∧ s.err = t.err ∧ s.errCode = t.errCode ∧
    s.errCmd = t.errCmd

/-- Two states the host cannot tell apart, now or later: they differ at most in lanes that no INIT has zeroed since
reset, in an `OUT` that is not valid, and in the result of a micro-operation, which the host cannot see
(spec/10_state.md R25). -/
def HostAgree (s t : State) : Prop :=
  s.phase = t.phase ∧ s.dv = t.dv ∧ s.err = t.err ∧ s.errCode = t.errCode ∧ s.errCmd = t.errCmd ∧
    s.requests = t.requests ∧ s.reads = t.reads ∧ s.freeCount = t.freeCount ∧
    (s.phase ≠ .idle → s.lanes = t.lanes) ∧ (s.dv = true → s.out = t.out)

/-- The blocks absorbed since the last INIT, padded block included, after the step from `s`, given those before it
(spec/10_state.md R26 (d)). -/
def absorbedAfter (bs : List Block) (s : State) : List Block :=
  match s.requests with
  | .command cmd din :: _ =>
    if s.err then bs
    else
      match decode cmd din with
      | .ok .init => []
      | .ok (.absorb b) => if s.phase = .absorbing then bs ++ [b] else bs
      | .ok (.final n b) => if s.phase = .absorbing ∧ n.toNat ≤ 135 then bs ++ [padBlock b n.toNat] else bs
      | _ => bs
  | _ => bs

/-- The state holds what absorbing `bs` from the all-zero state gives, and a valid `OUT` is its first 32 bytes
(spec/10_state.md R15, R26 (d)). -/
def HoldsAbsorbed (bs : List Block) (s : State) : Prop :=
  (s.phase ≠ .idle → s.lanes = absorbAll bs) ∧ (s.dv = true → s.out = extract (absorbAll bs))

/-- The digest a run has produced: `OUT` once `dv = 1`, and none if a command has faulted (spec/43_oneshot.md R125,
spec/70_reset_and_hazards.md R167). -/
def State.digest (s : State) : Option Digest := if s.dv ∧ s.err = false then some s.out else none

/-- The bytes of `A'` are those of `A` with a block XORed into `SB[0..135]` (spec/20_memory.md R36). -/
def XoredInto (A A' : Lanes) (p : Fin 136 → Byte) : Prop :=
  ∀ i : Fin 200, sbByte A' i = if h : i.val < 136 then sbByte A i ^^^ p ⟨i.val, h⟩ else sbByte A i

/-- The bytes of a padded last block by cases (spec/41_padding.md R91). -/
def paddedByte (din : Block) (n : Nat) (i : Fin 136) : Byte :=
  if i.val < n then din[i]
  else if i.val = n then (if n = 135 then 0x81#8 else 0x01#8)
  else if i.val = 135 then 0x80#8 else 0x00#8

/-- The word `v` is legal: it decodes, and FINAL's length is in range (spec/30_encoding.md R54). -/
def legalWord (v : Nat) : Bool :=
  match decode (BitVec.ofNat 16 v) zeroBlock with
  | .ok (.final n _) => decide (n.toNat ≤ 135)
  | .ok _ => true
  | .error _ => false

/-- The commands that absorb a block, one permutation each (spec/42_sponge.md R106). -/
def absorbsBlock : Instr → Bool
  | .absorb _ | .final _ _ => true
  | .init | .squeeze | .theta | .rho | .pi | .chi | .iota _ | .round _ | .permute => false
  | .pad _ _ | .xorin _ | .extract | .hash _ => false

/-- A request that applies reset (spec/70_reset_and_hazards.md R160). -/
def HostRequest.isReset : HostRequest → Bool
  | .reset | .resetDuring _ _ => true
  | .command _ _ | .readStatus | .readOut => false

end Sys2Proof.Machine
end

