-- ==== Sys2Proof/Certificates/Slice0/Obligations.lean ====
section
/-! DEFINITION. The statements for the provers. Each docstring names the rules of spec/ it comes from. Where a statement
speaks of `step`, the host's commands, reads and resets stand in the list `requests`, which is the model's rendering of
the host (log 1). -/

open Sys2Proof Sys2Proof.Machine

/-! ### Reset -/

/-- What reset leaves in the controller (spec/10_state.md R25, spec/70_reset_and_hazards.md R160), and what STATUS then
reads (spec/10_state.md R20). Nothing is said of the lanes and `OUT`, which are free values (log 4). -/
def Obligations.ResetClearsController : Prop :=
  State.reset.phase = .idle ∧ State.reset.dv = false ∧ State.reset.err = false ∧ State.reset.errCode = 0#3 ∧
    State.reset.errCmd = 0#16 ∧ statusWord State.reset = 0#32

/-- Reset is available from every state, also while a command is executing, which is then abandoned without effect; it
leaves the controller as R25 says (spec/70_reset_and_hazards.md R160). What the host still requests and what it has
read stay (the model's choice, log 1 and log 3). -/
def Obligations.ResetRequestFromEveryState : Prop :=
  ∀ (s : State) (r : HostRequest) (rs : List HostRequest), s.requests = r :: rs → r.isReset = true →
    ∃ t, step s = .next t ∧ t.phase = .idle ∧ t.dv = false ∧ t.err = false ∧ t.errCode = 0#3 ∧ t.errCmd = 0#16 ∧
      t.requests = rs ∧ t.reads = s.reads ∧
      ∀ u cmd din, u = { s with requests := .resetDuring cmd din :: rs } → step u = .next t

/-- Reset is the only event that clears `err` (spec/10_state.md R16, spec/70_reset_and_hazards.md R160). -/
def Obligations.OnlyResetClearsErr : Prop :=
  ∀ s t : State, step s = .next t → s.err = true → t.err = false →
    ∃ r rs, s.requests = r :: rs ∧ r.isReset = true

/-! ### Encoding -/

/-- A few words written out from the table of spec/30_encoding.md R51, and one illegal word of each kind. -/
def Obligations.DecodeOfTableWords : Prop :=
  ∀ din : Block, decode 0x1000#16 din = .ok .init ∧ decode 0x2000#16 din = .ok (.absorb din) ∧
    decode 0x3087#16 din = .ok (.final 135#8 din) ∧ decode 0x30FF#16 din = .ok (.final 255#8 din) ∧
    decode 0x4000#16 din = .ok .squeeze ∧ decode 0x0000#16 din = .error .illop ∧
    decode 0x5FFF#16 din = .error .illop ∧ decode 0x31FF#16 din = .error .rsvd ∧
    decode 0x2001#16 din = .error .rsvd

/-- Decode on every word, by its numeric fields (spec/30_encoding.md R55): ILLOP for an opcode outside 1 to 4, then RSVD
for a nonzero reserved field or a nonzero length outside FINAL, and otherwise the command. -/
def Obligations.DecodeIsTotalByFields : Prop :=
  ∀ (cmd : CmdWord) (din : Block),
    (decode cmd din = .error .illop ↔ cmd.toNat / 4096 = 0 ∨ 5 ≤ cmd.toNat / 4096) ∧
    (decode cmd din = .error .rsvd ↔ (1 ≤ cmd.toNat / 4096 ∧ cmd.toNat / 4096 ≤ 4) ∧
      (cmd.toNat / 256 % 16 ≠ 0 ∨ (cmd.toNat / 4096 ≠ 3 ∧ cmd.toNat % 256 ≠ 0))) ∧
    (decode cmd din = .ok .init ↔ cmd.toNat = 0x1000) ∧
    (decode cmd din = .ok (.absorb din) ↔ cmd.toNat = 0x2000) ∧
    (∀ n : BitVec 8, decode cmd din = .ok (.final n din) ↔ cmd.toNat = 0x3000 + n.toNat) ∧
    (decode cmd din = .ok .squeeze ↔ cmd.toNat = 0x4000) ∧
    decode cmd din ≠ .error .phase ∧ decode cmd din ≠ .error .len

/-- Exactly 139 of the 65536 words are legal: they decode, and a FINAL among them has a length of at most 135
(spec/30_encoding.md R54). -/
def Obligations.ExactlyOneHundredThirtyNineLegalWords : Prop :=
  ((Finset.range 65536).filter fun v => legalWord v = true).card = 139 ∧
    ∀ v < 65536, legalWord v = true ↔ v = 0x1000 ∨ v = 0x2000 ∨ (0x3000 ≤ v ∧ v ≤ 0x3087) ∨ v = 0x4000

/-- Decode and encode agree, in both directions: a command's word decodes to the command with every operand kept, and
what a word decodes to is a command that encodes to that word; the micro-operations and HASH have no word
(spec/30_encoding.md R51, R57, R58). -/
def Obligations.DecodeEncodeRoundTrip : Prop :=
  (∀ i : Instr, i.isCommand = true → ∃ w din, encode i = some (w, din) ∧ decode w din = .ok i) ∧
    (∀ w din i, decode w din = .ok i → i.isCommand = true ∧ ∃ d, encode i = some (w, d)) ∧
    (∀ i : Instr, i.isCommand = false → encode i = none)

/-! ### The step -/

/-- A step runs the decoded instruction: when the host's oldest request is a word that decodes to `i`, the step is `exec`
of `i` in the state without that request. -/
def Obligations.StepRunsTheDecodedCommand : Prop :=
  ∀ (s : State) (cmd : CmdWord) (din : Block) (rs : List HostRequest) (i : Instr),
    s.requests = .command cmd din :: rs → decode cmd din = .ok i → step s = exec i { s with requests := rs }

/-- Every step answers a next state: every command completes, whatever the word and the data
(spec/70_reset_and_hazards.md R165, spec/60_exceptions.md R153), and requests are taken one at a time in the host's
order (spec/20_memory.md R43); with none pending the state stays as it is (the model's choice, log 2). -/
def Obligations.EveryStepCompletesInOrder : Prop :=
  ∀ s : State, ∃ t, step s = .next t ∧ t.requests = s.requests.tail ∧ (s.requests = [] → t = s)

/-- A read of STATUS or OUT has no side effect on the engine and gives the host one answer; STATUS is the status word,
and OUT read while `dv = 1` is `OUT` (spec/20_memory.md R41, R43, spec/10_state.md R19, R20). -/
def Obligations.ReadsHaveNoSideEffect : Prop :=
  ∀ (s : State) (rs : List HostRequest),
    (s.requests = .readStatus :: rs →
      step s = .next { s with requests := rs, reads := s.reads ++ [.status (statusWord s)] }) ∧
    (s.requests = .readOut :: rs →
      ∃ t d, step s = .next t ∧ SameEngine s t ∧ t.requests = rs ∧ t.reads = s.reads ++ [.out d] ∧
        t.microResult = s.microResult ∧ (s.dv = true → d = s.out))

/-! ### STATUS and the byte views -/

/-- The fields of the STATUS word (spec/10_state.md R20), `busy` reading 0 in a model of atomic commands. -/
def Obligations.StatusWordFields : Prop :=
  ∀ s : State, (statusWord s).extractLsb' 0 2 = phaseBits s.phase ∧
    (statusWord s).getLsbD 2 = s.dv ∧ (statusWord s).getLsbD 3 = s.err ∧
    (statusWord s).extractLsb' 4 3 = s.errCode ∧ (statusWord s).getLsbD 7 = false ∧
    (statusWord s).extractLsb' 8 8 = 0#8 ∧ (statusWord s).extractLsb' 16 16 = s.errCmd

/-- The flat buffer and the lanes are one storage (spec/20_memory.md R31, R33): bit `b` of byte `i` is bit
`8*(i mod 8) + b` of lane `floor(i/8)`, bit `p` of lane `j` is bit `p mod 8` of byte `8j + floor(p/8)`, and lane `j` is
LE64 of its bytes. -/
def Obligations.FlatBufferIsTheLanes : Prop :=
  ∀ A : Lanes,
    (∀ (i : Fin 200) (b : Fin 8),
      (sbByte A i).getLsbD b.val = A[i.val / 8].getLsbD (8 * (i.val % 8) + b.val)) ∧
    (∀ (j : Fin 25) (p : Fin 64),
      A[j].getLsbD p.val = (sbByte A ⟨8 * j.val + p.val / 8, by omega⟩).getLsbD (p.val % 8)) ∧
    (∀ j : Fin 25, A[j] = le64 fun b => sbByte A ⟨8 * j.val + b.val, by omega⟩)

/-- `LE64(b0, ..., b7)` is `b0 + 2^8 b1 + ... + 2^56 b7` (spec/00_scope.md R9). -/
def Obligations.LE64IsTheWeightedSum : Prop :=
  ∀ b : Fin 8 → Byte, (le64 b).toNat = ∑ k : Fin 8, 2 ^ (8 * k.val) * (b k).toNat

/-- DIN and OUT on one wide value: byte `i` is bits `8i+7` down to `8i` (spec/20_memory.md R38, R39). -/
def Obligations.WideValueLayouts : Prop :=
  (∀ (din : BitVec 1088) (i : Fin 136), (blockOfWide din)[i] = din.extractLsb' (8 * i.val) 8) ∧
    (∀ (d : Digest) (i : Fin 32), (wideOfDigest d).extractLsb' (8 * i.val) 8 = d[i])

/-! ### The step mappings: each completes, with its result lane by lane, and replaces only the lanes -/

/-- THETA (spec/40_permutation.md R71). -/
def Obligations.ThetaXorsNeighbourParities : Prop :=
  ∀ s : State, ∃ A : Lanes, exec .theta s = .next { s with lanes := A } ∧
    ∀ x y : Fin 5, laneAt A x y = laneAt s.lanes x y ^^^
      ((laneAt s.lanes (x - 1) 0 ^^^ laneAt s.lanes (x - 1) 1 ^^^ laneAt s.lanes (x - 1) 2 ^^^
          laneAt s.lanes (x - 1) 3 ^^^ laneAt s.lanes (x - 1) 4) ^^^
        (laneAt s.lanes (x + 1) 0 ^^^ laneAt s.lanes (x + 1) 1 ^^^ laneAt s.lanes (x + 1) 2 ^^^
          laneAt s.lanes (x + 1) 3 ^^^ laneAt s.lanes (x + 1) 4).rotateLeft 1)

/-- RHO, bit by bit (spec/40_permutation.md R72, spec/00_scope.md R8): bit `p` of each lane moves to bit
`(p + RHO[x,y]) mod 64`, the offsets being those printed in R73. -/
def Obligations.RhoRotatesByTheTable : Prop :=
  ∀ s : State, ∃ A : Lanes, exec .rho s = .next { s with lanes := A } ∧
    ∀ (x y : Fin 5) (p : Fin 64),
      (laneAt A x y).getLsbD ((p.val + ([0, 1, 62, 28, 27, 36, 44, 6, 55, 20, 3, 10, 43, 25, 39, 41, 45, 15, 21, 8,
        18, 2, 61, 56, 14] : List Nat).getD (x.val + 5 * y.val) 0) % 64) = (laneAt s.lanes x y).getLsbD p.val

/-- PI (spec/40_permutation.md R74) as a scatter, the lane at `(x, y)` moving to `(y, 2x + 3y)`, as a gather, and by the
table SRC of linear indices; `(0,0)` is the only fixed point, and the other 24 coordinates form one cycle, walked from
`(1,0)`. -/
def Obligations.PiMovesEachLane : Prop :=
  (∀ s : State, ∃ A : Lanes, exec .pi s = .next { s with lanes := A } ∧
    (∀ x y : Fin 5, laneAt A y (2 * x + 3 * y) = laneAt s.lanes x y) ∧
    (∀ x y : Fin 5, laneAt A x y = laneAt s.lanes (x + 3 * y) x) ∧
    (∀ j : Fin 25, A[j.val]? = s.lanes[([0, 6, 12, 18, 24, 3, 9, 10, 16, 22, 1, 7, 13, 19, 20, 4, 5, 11, 17, 23, 2, 8,
      14, 15, 21] : List Nat).getD j.val 25]?)) ∧
  (∀ x y : Fin 5, (y = x ∧ 2 * x + 3 * y = y) ↔ (x = 0 ∧ y = 0)) ∧
  (∀ x y : Fin 5, ¬(x = 0 ∧ y = 0) → ∃ k : Fin 24, rhoWalk k.val = (x, y)) ∧ rhoWalk 24 = rhoWalk 0

/-- CHI, bit by bit (spec/40_permutation.md R75). -/
def Obligations.ChiMixesEachRow : Prop :=
  ∀ s : State, ∃ A : Lanes, exec .chi s = .next { s with lanes := A } ∧
    ∀ (x y : Fin 5) (p : Fin 64), (laneAt A x y).getLsbD p.val =
      ((laneAt s.lanes x y).getLsbD p.val ^^
        (!(laneAt s.lanes (x + 1) y).getLsbD p.val && (laneAt s.lanes (x + 2) y).getLsbD p.val))

/-- IOTA (spec/40_permutation.md R76), with the constants in the rows R77 prints: `RC[r]` beside `RC[r + 12]`. -/
def Obligations.IotaChangesOnlyTheOrigin : Prop :=
  ∀ (ir : Fin 24) (s : State), ∃ A : Lanes, exec (.iota ir) s = .next { s with lanes := A } ∧
    laneAt A 0 0 = laneAt s.lanes 0 0 ^^^ (if ir.val < 12 then Prod.fst else Prod.snd)
      (([(0x0000000000000001, 0x000000008000808B),
        (0x0000000000008082, 0x800000000000008B),
        (0x800000000000808A, 0x8000000000008089),
        (0x8000000080008000, 0x8000000000008003),
        (0x000000000000808B, 0x8000000000008002),
        (0x0000000080000001, 0x8000000000000080),
        (0x8000000080008081, 0x000000000000800A),
        (0x8000000000008009, 0x800000008000000A),
        (0x000000000000008A, 0x8000000080008081),
        (0x0000000000000088, 0x8000000000008080),
        (0x0000000080008009, 0x0000000080000001),
        (0x000000008000000A, 0x8000000080008008)] :
        List (Lane × Lane)).getD (ir.val % 12) (0, 0)) ∧
    ∀ x y : Fin 5, ¬(x = 0 ∧ y = 0) → laneAt A x y = laneAt s.lanes x y

/-- ROUND is theta, rho, pi, chi, iota, executed in that order (spec/40_permutation.md R78, R70). -/
def Obligations.RoundIsItsFiveSteps : Prop :=
  ∀ (ir : Fin 24) (s : State), ∃ s1 s2 s3 s4 s5 : State,
    exec .theta s = .next s1 ∧ exec .rho s1 = .next s2 ∧ exec .pi s2 = .next s3 ∧ exec .chi s3 = .next s4 ∧
      exec (.iota ir) s4 = .next s5 ∧ exec (.round ir) s = .next s5

/-- PERMUTE is rounds 0 to 23 executed in increasing order (spec/40_permutation.md R79, R70). -/
def Obligations.PermuteIsTwentyFourRounds : Prop :=
  ∀ s : State, ∃ u : Nat → State, u 0 = s ∧
    (∀ ir : Fin 24, exec (.round ir) (u ir.val) = .next (u (ir.val + 1))) ∧ exec .permute s = .next (u 24)

/-- The permutation and each step mapping are bijections on the states of 1600 bits (spec/40_permutation.md R80). A way
to THETA's injectivity: THETA is linear, so let `X` be in its kernel; then `X[x,y] = D[x]`, so `C[x] = D[x]` and
`D[x] = D[x-1] ^ rotl(D[x+1], 1)`; putting that relation into itself six times turns `1` into `64` in all three places,
where the rotation is gone, and what is left on the 5-cycle forces `D = 0`. -/
def Obligations.PermutationIsABijection : Prop :=
  Function.Bijective thetaStep ∧ Function.Bijective rhoStep ∧ Function.Bijective piStep ∧
    Function.Bijective chiStep ∧ (∀ ir : Fin 24, Function.Bijective fun A => iotaStep A ir) ∧
    Function.Bijective permute

/-- The rotation offsets are those the procedure of R81 generates, whose walk visits the 24 other lanes once each
(spec/40_permutation.md R81, R73). -/
def Obligations.RhoTableRegenerates : Prop :=
  rhoOffset 0 0 = 0 ∧
    (∀ t : Fin 24, rhoOffset (rhoWalk t.val).1 (rhoWalk t.val).2 = (t.val + 1) * (t.val + 2) / 2 % 64) ∧
    ∀ x y : Fin 5, ¬(x = 0 ∧ y = 0) → ∃ t : Fin 24, rhoWalk t.val = (x, y) ∧ ∀ u : Fin 24, rhoWalk u.val = (x, y) → u = t

/-- The round constants are those the register of R82 generates (spec/40_permutation.md R82, R77). -/
def Obligations.RoundConstantsRegenerate : Prop :=
  ∀ ir : Fin 24, roundConstant ir = rcGenerated ir.val

/-! ### Data movements and the padder -/

/-- XORIN (spec/20_memory.md R36), by bytes and by lanes: the capacity lanes 17 to 24 receive nothing (R35). -/
def Obligations.XorinXorsTheRateRegion : Prop :=
  ∀ (p : Block) (s : State), ∃ A : Lanes, exec (.xorin p) s = .next { s with lanes := A } ∧
    (∀ i : Fin 200, sbByte A i = if h : i.val < 136 then sbByte s.lanes i ^^^ p[i.val] else sbByte s.lanes i) ∧
    (∀ j : Fin 25, A[j] =
      if h : j.val < 17 then s.lanes[j] ^^^ le64 (fun b => p[8 * j.val + b.val]) else s.lanes[j])

/-- EXTRACT (spec/20_memory.md R37): the little-endian bytes of lanes 0 to 3, and the state's lanes and `OUT` stay. That
the string lands in `microResult` is the model's choice (log 7). -/
def Obligations.ExtractReadsTheOutputRegion : Prop :=
  ∀ s : State, ∃ d : Digest, exec .extract s = .next { s with microResult := .bytes d } ∧
    ∀ i : Fin 32, d[i] = s.lanes[i.val / 8].extractLsb' (8 * (i.val % 8)) 8

/-- PAD by cases (spec/41_padding.md R90, R91), and bit by bit (R94): the message's bits, a 1 at stream position `8n`,
zeros, and a 1 at position 1087. That the block lands in `microResult` is the model's choice (log 7). -/
def Obligations.PadAppendsPadTenStarOne : Prop :=
  ∀ (n : Fin 136) (din : Block) (s : State), ∃ p : Block,
    exec (.pad n din) s = .next { s with microResult := .block p } ∧
    (∀ i : Fin 136, p[i] = if i.val < n.val then din[i]
      else if i.val = n.val then (if n.val = 135 then 0x81#8 else 0x01#8)
      else if i.val = 135 then 0x80#8 else 0x00#8) ∧
    (∀ q : Fin 1088, p[q.val / 8].getLsbD (q.val % 8) =
      if q.val < 8 * n.val then din[q.val / 8].getLsbD (q.val % 8)
      else decide (q.val = 8 * n.val ∨ q.val = 1087))

/-- Bytes of the block at and after the count do not affect the padded block, and those of the block given to FINAL do
not affect its effect, in any state (spec/41_padding.md R95, spec/30_encoding.md R53). -/
def Obligations.FinalIgnoresBytesAfterLen : Prop :=
  ∀ (d e : Block) (s : State),
    (∀ n : Fin 136, (∀ i : Fin 136, i.val < n.val → d[i] = e[i]) → exec (.pad n d) s = exec (.pad n e) s) ∧
    (∀ len : BitVec 8, (∀ i : Fin 136, i.val < len.toNat → d[i] = e[i]) →
      exec (.final len d) s = exec (.final len e) s)

/-- The padded stream's length (spec/41_padding.md R93): `136 * (floor(L/136) + 1)` bytes, the smallest multiple of 136
that is at least `L + 1`; and HASH applies one permutation for each of its blocks, by its ABSORB and FINAL commands. -/
def Obligations.PaddedStreamLength : Prop :=
  ∀ (fill : Block) (m : List Byte), (paddedStream m).length = 136 * (m.length / 136 + 1) ∧
    m.length + 1 ≤ (paddedStream m).length ∧
    (∀ q, 136 ∣ q → m.length + 1 ≤ q → (paddedStream m).length ≤ q) ∧
    (hashCommands fill m).countP absorbsBlock = m.length / 136 + 1

/-- Padding is injective on messages (spec/41_padding.md R96). -/
def Obligations.PaddingIsInjective : Prop := Function.Injective paddedStream

/-! ### The commands: each completes where the spec says it is accepted, with its whole effect -/

/-- INIT is accepted in every phase (spec/42_sponge.md R101). -/
def Obligations.InitZeroesTheLanes : Prop :=
  ∀ s : State, s.err = false → ∃ A : Lanes,
    exec .init s = .next { s with lanes := A, phase := .absorbing, dv := false } ∧
    ∀ x y : Fin 5, laneAt A x y = 0#64

/-- ABSORB in ABSORBING (spec/42_sponge.md R102, R106): the block is XORed into `SB[0..135]`, then one permutation is
applied; the frame is everything but the lanes. -/
def Obligations.AbsorbXorsAndPermutes : Prop :=
  ∀ (din : Block) (s : State), s.err = false → s.phase = .absorbing → ∃ A : Lanes,
    XoredInto s.lanes A (fun i => din[i]) ∧ exec (.absorb din) s = .next { s with lanes := permute A }

/-- FINAL with `len` at most 135 in ABSORBING (spec/42_sponge.md R103, R106): the padded block is XORed in, one
permutation is applied, and the phase becomes PADDED. -/
def Obligations.FinalPadsAndPermutes : Prop :=
  ∀ (len : BitVec 8) (din : Block) (s : State), s.err = false → s.phase = .absorbing → len.toNat ≤ 135 →
    ∃ A : Lanes, XoredInto s.lanes A (paddedByte din len.toNat) ∧
      exec (.final len din) s = .next { s with lanes := permute A, phase := .padded }

/-- SQUEEZE in PADDED (spec/42_sponge.md R104): `OUT[i]` becomes `SB[i]`, all 32 at once, the lanes stay. -/
def Obligations.SqueezeDeliversTheDigest : Prop :=
  ∀ s : State, s.err = false → s.phase = .padded → ∃ d : Digest,
    (∀ i : Fin 32, d[i] = s.lanes[i.val / 8].extractLsb' (8 * (i.val % 8)) 8) ∧
    exec .squeeze s = .next { s with out := d, phase := .done, dv := true }

/-- The phase table (spec/42_sponge.md R105), every cell: the next phase of an accepted command, and PHASE or LEN of one
that is not; a fault leaves `phase` and everything else but the three fault registers, which take 1, the code and the
command's word (spec/60_exceptions.md R143, R144, R146). -/
def Obligations.PhaseTableOfTheCommands : Prop :=
  ∀ (s : State) (len : BitVec 8) (din : Block), s.err = false →
    (∃ t, exec .init s = .next t ∧ t.phase = .absorbing ∧ t.err = false) ∧
    (s.phase = .absorbing → ∃ t, exec (.absorb din) s = .next t ∧ t.phase = .absorbing ∧ t.err = false) ∧
    (s.phase = .absorbing → len.toNat ≤ 135 →
      ∃ t, exec (.final len din) s = .next t ∧ t.phase = .padded ∧ t.err = false) ∧
    (s.phase = .padded → ∃ t, exec .squeeze s = .next t ∧ t.phase = .done ∧ t.err = false) ∧
    (s.phase ≠ .absorbing →
      exec (.absorb din) s = .next { s with err := true, errCode := 3#3, errCmd := 0x2000#16 } ∧
      exec (.final len din) s =
        .next { s with err := true, errCode := 3#3, errCmd := 0x3000#16 + len.setWidth 16 }) ∧
    (s.phase = .absorbing → 135 < len.toNat →
      exec (.final len din) s =
        .next { s with err := true, errCode := 4#3, errCmd := 0x3000#16 + len.setWidth 16 }) ∧
    (s.phase ≠ .padded →
      exec .squeeze s = .next { s with err := true, errCode := 3#3, errCmd := 0x4000#16 })

/-! ### Faults -/

/-- Which fault a command word raises, by its numeric fields and the phase, the first that applies of ILLOP, RSVD, PHASE,
LEN (spec/60_exceptions.md R145, R140 to R144); and taking it changes the three fault registers only (R146). -/
def Obligations.FirstFaultInOrderIsTaken : Prop :=
  ∀ (s : State) (cmd : CmdWord) (din : Block) (rs : List HostRequest) (op rsv len : Nat),
    s.requests = .command cmd din :: rs → s.err = false →
    op = cmd.toNat / 4096 → rsv = cmd.toNat / 256 % 16 → len = cmd.toNat % 256 →
    if op = 0 ∨ 5 ≤ op then
      step s = .next { s with requests := rs, err := true, errCode := 1#3, errCmd := cmd }
    else if rsv ≠ 0 ∨ (op ≠ 3 ∧ len ≠ 0) then
      step s = .next { s with requests := rs, err := true, errCode := 2#3, errCmd := cmd }
    else if ((op = 2 ∨ op = 3) ∧ s.phase ≠ .absorbing) ∨ (op = 4 ∧ s.phase ≠ .padded) then
      step s = .next { s with requests := rs, err := true, errCode := 3#3, errCmd := cmd }
    else if op = 3 ∧ 135 < len then
      step s = .next { s with requests := rs, err := true, errCode := 4#3, errCmd := cmd }
    else ∃ t, step s = .next t ∧ t.err = false ∧ t.errCode = s.errCode ∧ t.errCmd = s.errCmd

/-- While `err = 1` every command is dropped: however many commands the host issues, well formed or not, the run of them
changes nothing, and no request but a reset changes anything in the engine (spec/60_exceptions.md R147). -/
def Obligations.FaultIsFinalForEveryCommandSequence : Prop :=
  (∀ (s : State) (cs : List (CmdWord × Block)) (rest : List HostRequest), s.err = true →
    s.requests = cs.map (fun c => .command c.1 c.2) ++ rest →
    Sys2Proof.core.run cs.length s = .next { s with requests := rest }) ∧
  ∀ (s : State) (r : HostRequest) (rs : List HostRequest), s.err = true → s.requests = r :: rs → r.isReset = false →
    ∃ t, step s = .next t ∧ SameEngine s t

/-! ### Invariants and whole-machine rules -/

/-- The controller's invariant holds after reset, and the history invariant with nothing absorbed
(spec/10_state.md R26). -/
def Obligations.ResetIsConsistent : Prop := State.reset.Consistent ∧ HoldsAbsorbed [] State.reset

/-- Every step, and every instruction executed on its own, keeps the controller's invariant (spec/10_state.md R26 (a), (b),
R17). -/
def Obligations.StepKeepsTheControllerConsistent : Prop :=
  (∀ s t : State, s.Consistent → step s = .next t → t.Consistent) ∧
    ∀ (i : Instr) (s t : State), s.Consistent → exec i s = .next t → t.Consistent

/-- The history invariant (spec/10_state.md R15, R26 (d)): out of IDLE the lanes are what absorbing the blocks since the
last INIT gives from the all-zero state, and a valid `OUT` is the first 32 bytes of that; every step keeps it, with the
history that its accepted command adds. -/
def Obligations.StepKeepsTheAbsorbedHistory : Prop :=
  ∀ (bs : List Block) (s t : State), s.Consistent → HoldsAbsorbed bs s → step s = .next t →
    HoldsAbsorbed (absorbedAfter bs s) t

/-- Nothing observable depends on the unspecified reset values (spec/10_state.md R25): whatever the lanes and `OUT` hold
after reset, and whatever the host then does, two runs that agree keep agreeing, answer for answer. -/
def Obligations.UnspecifiedResetValuesAreNeverObserved : Prop :=
  (∀ (A B : Lanes) (d e : Digest) (rs : List HostRequest),
    HostAgree { State.reset with lanes := A, out := d, requests := rs }
      { State.reset with lanes := B, out := e, requests := rs }) ∧
  ∀ (k : Nat) (s t s' t' : State), HostAgree s t → Sys2Proof.core.run k s = .next s' →
    Sys2Proof.core.run k t = .next t' → HostAgree s' t' ∧ s'.reads = t'.reads

/-- Only these events write each piece of state (spec/10_state.md R13 to R19): the lanes change only by an accepted INIT,
ABSORB or FINAL, `OUT` only by an accepted SQUEEZE, `phase` only by an accepted INIT, FINAL or SQUEEZE, `dv` only by an
accepted INIT or SQUEEZE, and by reset. -/
def Obligations.OnlyTheirCommandsWriteEachRegister : Prop :=
  ∀ (s t : State) (cmd : CmdWord) (din : Block) (rs : List HostRequest), step s = .next t →
    s.requests = .command cmd din :: rs →
    (t.lanes ≠ s.lanes → s.err = false ∧ (cmd = 0x1000#16 ∨
      (s.phase = .absorbing ∧ (cmd = 0x2000#16 ∨ (0x3000 ≤ cmd.toNat ∧ cmd.toNat ≤ 0x3087))))) ∧
    (t.out ≠ s.out → s.err = false ∧ s.phase = .padded ∧ cmd = 0x4000#16) ∧
    (t.phase ≠ s.phase → s.err = false ∧ (cmd = 0x1000#16 ∨
      (s.phase = .absorbing ∧ 0x3000 ≤ cmd.toNat ∧ cmd.toNat ≤ 0x3087) ∨ (s.phase = .padded ∧ cmd = 0x4000#16))) ∧
    (t.dv ≠ s.dv → s.err = false ∧ (cmd = 0x1000#16 ∨ (s.phase = .padded ∧ cmd = 0x4000#16)))

/-- Determinism (spec/42_sponge.md R109): the engine after an instruction is a function of the engine before it and of the
instruction with its operands; the host's side and the free values have no part in it. -/
def Obligations.EngineIsAFunctionOfEngineAndInstruction : Prop :=
  ∀ (i : Instr) (s t s' t' : State), SameEngine s t → exec i s = .next s' → exec i t = .next t' → SameEngine s' t'

/-- The frame of every instruction outside the engine (spec/42_sponge.md R108): what the host has requested and read, and
the count of free values, stay; a command or HASH does not touch `microResult`. -/
def Obligations.InstructionsLeaveTheHostSideAlone : Prop :=
  ∀ (i : Instr) (s t : State), exec i s = .next t →
    t.requests = s.requests ∧ t.reads = s.reads ∧ t.freeCount = s.freeCount ∧
    ((∀ n din, i ≠ .pad n din) → i ≠ .extract → t.microResult = s.microResult)

/-! ### The one-shot hash -/

/-- HASH leaves the digest (spec/43_oneshot.md R122): from any state with `err = 0`, in any phase, its commands leave
`err = 0`, `phase = DONE`, `dv = 1` and `OUT = Keccak256(M)`, and only the lanes, `OUT`, `phase` and `dv` change; so for
HASH executed as one instruction and for the host that requests its commands one by one. -/
def Obligations.HashLeavesTheKeccakDigest : Prop :=
  ∀ (m : List Byte) (s : State), s.err = false → ∃ A : Lanes,
    exec (.hash (.bytes m)) s =
      .next { s with lanes := A, out := keccak256 m, phase := .done, dv := true } ∧
    ∀ (fill : Block) (rest : List HostRequest), s.requests = requestsOf (hashCommands fill m) ++ rest →
      ∃ t, Sys2Proof.core.run (m.length / 136 + 3) s = .next t ∧
        t = { s with lanes := A, out := keccak256 m, phase := .done, dv := true, requests := rest } ∧
        t.digest = some (keccak256 m)

/-- Keccak256 is the sponge over the padded stream (spec/43_oneshot.md R121, spec/41_padding.md R93): absorbing its
consecutive 136-byte blocks, from the all-zero state, and reading the first 32 bytes. -/
def Obligations.KeccakAbsorbsThePaddedStream : Prop :=
  ∀ m : List Byte, keccak256 m = extract (absorbAll (messageBlocks zeroBlock (paddedStream m)))

/-- The digest of the empty message, which the source prints (spec/95_test_vectors.md S1, D1, spec/40_permutation.md R85,
spec/43_oneshot.md R130): it ties both tables, PI's direction, the byte order and the padding to the source. -/
def Obligations.EmptyMessageDigest : Prop :=
  (wideOfDigest (keccak256 [])).toNat =
    0x70a4855d04d8fa7b3b2782ca53b600e5c003c7dcb27d7e923c23f7860146d2c5

/-- HASH is its expansion, step by step (spec/43_oneshot.md R120): INIT, an ABSORB for each full block of the message,
FINAL of the rest and SQUEEZE, `k + 3` commands; a host that requests them, with any bytes after the message's end in
FINAL's block, and runs that many steps, is in the state that HASH M gives; from every state, also one with a fault
recorded. -/
def Obligations.HashIsItsCommandSequence : Prop :=
  ∀ (fill : Block) (m : List Byte),
    (∃ blk : Nat → Block,
      hashCommands fill m = [.init] ++ (List.range (m.length / 136)).map (fun j => .absorb (blk j)) ++
        [.final (BitVec.ofNat 8 (m.length % 136)) (blk (m.length / 136)), .squeeze] ∧
      ∀ (j : Nat) (i : Fin 136) (h : 136 * j + i.val < m.length), (blk j)[i] = m[136 * j + i.val]) ∧
    (hashCommands fill m).length = m.length / 136 + 3 ∧
    ∀ (s : State) (rest : List HostRequest), s.requests = requestsOf (hashCommands fill m) ++ rest →
      Sys2Proof.core.run (m.length / 136 + 3) s = exec (.hash (.bytes m)) { s with requests := rest }

/-- The null buffer (spec/43_oneshot.md R124): with length 0 it is the empty message, with nonzero length it is refused,
before any command is issued (spec/93_implementation_defined.md U3: the model refuses, log 9). -/
def Obligations.NullBufferOnlyWithLengthZero : Prop :=
  ∀ (s : State) (length : Nat), exec (.hash (.null 0)) s = exec (.hash (.bytes [])) s ∧
    (length ≠ 0 → exec (.hash (.null length)) s = .refused (.nullBuffer length))
end

