-- ==== Sys2Proof/Laws/Decode.lean ====
section
/-! SUPPORT. What the decoder can answer. -/

namespace Sys2Proof

@[simp] theorem opField_makeWord (op rsv : BitVec 4) (len : BitVec 8) : opField (makeWord op rsv len) = op := by
  apply BitVec.eq_of_getLsbD_eq
  intro i hi
  simp only [opField, makeWord, BitVec.getLsbD_extractLsb', BitVec.getLsbD_append]
  interval_cases i <;> simp

@[simp] theorem rsvField_makeWord (op rsv : BitVec 4) (len : BitVec 8) : rsvField (makeWord op rsv len) = rsv := by
  apply BitVec.eq_of_getLsbD_eq
  intro i hi
  simp only [rsvField, makeWord, BitVec.getLsbD_extractLsb', BitVec.getLsbD_append]
  interval_cases i <;> simp

@[simp] theorem lenField_makeWord (op rsv : BitVec 4) (len : BitVec 8) : lenField (makeWord op rsv len) = len := by
  apply BitVec.eq_of_getLsbD_eq
  intro i hi
  simp only [lenField, makeWord, BitVec.getLsbD_extractLsb', BitVec.getLsbD_append]
  interval_cases i <;> simp

/-- A command word is its three fields put together. -/
theorem makeWord_fields (cmd : CmdWord) : makeWord (opField cmd) (rsvField cmd) (lenField cmd) = cmd := by
  apply BitVec.eq_of_getLsbD_eq
  intro i hi
  simp only [makeWord, opField, rsvField, lenField, BitVec.getLsbD_append, BitVec.getLsbD_extractLsb']
  interval_cases i <;> simp

/-- The must-be-zero length check, inverted. -/
theorem decodeNoLen_ok {len : BitVec 8} {i j : Instr} (h : decodeNoLen len i = .ok j) : len = 0#8 ∧ j = i := by
  unfold decodeNoLen at h
  split at h
  · exact ⟨‹_›, by cases h; rfl⟩
  · cases h

/-- The fields of a word that decodes: the opcode is legal and the reserved field is zero. -/
theorem decode_ok_fields {cmd : CmdWord} {din : Block} {i : Instr} (h : decode cmd din = .ok i) :
    opField cmd ∈ [1#4, 2#4, 3#4, 4#4] ∧ rsvField cmd = 0#4 := by
  unfold decode at h
  split at h
  · cases h
  · split at h
    · cases h
    · exact ⟨not_not.mp ‹_›, not_not.mp ‹_›⟩

/-- Everything a successful decode can be: one of the four commands, and the word is that command's word. -/
theorem decode_ok_cases {cmd : CmdWord} {din : Block} {i : Instr} (h : decode cmd din = .ok i) :
    (i = .init ∧ cmd = initWord) ∨ (i = .absorb din ∧ cmd = absorbWord) ∨
    (i = .final (lenField cmd) din ∧ cmd = finalWord (lenField cmd)) ∨ (i = .squeeze ∧ cmd = squeezeWord) := by
  obtain ⟨hop, hrsv⟩ := decode_ok_fields h
  have hw := makeWord_fields cmd
  rw [hrsv] at hw
  simp only [decode, hop, not_true_eq_false, ↓reduceIte, hrsv, ne_eq] at h
  split at h
  · rename_i h1
    obtain ⟨hl, rfl⟩ := decodeNoLen_ok h
    exact .inl ⟨rfl, by rw [initWord, ← hw, h1, hl]⟩
  · split at h
    · rename_i h2
      obtain ⟨hl, rfl⟩ := decodeNoLen_ok h
      exact .inr (.inl ⟨rfl, by rw [absorbWord, ← hw, h2, hl]⟩)
    · split at h
      · rename_i h3
        cases h
        exact .inr (.inr (.inl ⟨rfl, by rw [finalWord]; exact (hw.symm.trans (by rw [h3]))⟩))
      · rename_i n1 n2 n3
        obtain ⟨hl, rfl⟩ := decodeNoLen_ok h
        have h4 : opField cmd = 4#4 := by
          simp only [List.mem_cons, n1, n2, n3, List.not_mem_nil, false_or, or_false] at hop
          exact hop
        exact .inr (.inr (.inr ⟨rfl, by rw [squeezeWord, ← hw, h4, hl]⟩))

/-- What a word decodes to is one of the host's commands. -/
theorem decode_ok_isCommand {cmd : CmdWord} {din : Block} {i : Instr} (h : decode cmd din = .ok i) :
    i.isCommand = true := by
  rcases decode_ok_cases h with ⟨rfl, _⟩ | ⟨rfl, _⟩ | ⟨rfl, _⟩ | ⟨rfl, _⟩ <;> rfl

end Sys2Proof
end

