-- ==== Sys2Proof/Laws/Operands.lean ====
section
/-! SUPPORT. The lemmas of the addressing functions. -/

namespace Sys2Proof.Machine

/-- Reading a tabulated vector gives the value at the index. -/
@[simp] theorem getElem_tabulate {α : Type} {n : Nat} (f : Fin n → α) (i : Nat) (h : i < n) :
    (tabulate f)[i] = f ⟨i, h⟩ := by
  simp only [tabulate, Vector.getElem_ofFn]

/-- The column of linear index `j`. -/
def colOf (j : Fin 25) : Fin 5 := ⟨j.val % 5, by omega⟩

/-- The row of linear index `j`. -/
def rowOf (j : Fin 25) : Fin 5 := ⟨j.val / 5, by omega⟩

/-- Reading a grid gives the value at the coordinate. -/
@[simp] theorem laneAt_ofGrid (f : Fin 5 → Fin 5 → Lane) (x y : Fin 5) : laneAt (ofGrid f) x y = f x y := by
  fin_cases x <;> fin_cases y <;> rfl

/-- Every linear index is the index of a grid coordinate. -/
theorem getElem_eq_laneAt (A : Lanes) (j : Nat) (h : j < 25) :
    A[j] = laneAt A (colOf ⟨j, h⟩) (rowOf ⟨j, h⟩) := by
  have e : j % 5 + 5 * (j / 5) = j := by omega
  simp only [laneAt, colOf, rowOf, e]

/-- Lanes that agree at every grid coordinate are equal. -/
theorem lanes_ext {A B : Lanes} (h : ∀ x y, laneAt A x y = laneAt B x y) : A = B := by
  apply Vector.ext
  intro j hj
  rw [getElem_eq_laneAt A j hj, getElem_eq_laneAt B j hj, h]

/-- Byte `k` of `LE64` is byte `k`. -/
theorem le64_byte (b : Fin 8 → Byte) (k : Fin 8) : (le64 b).extractLsb' (8 * k.val) 8 = b k := by
  fin_cases k <;>
    (apply BitVec.eq_of_getLsbD_eq
     intro i hi
     simp only [le64, BitVec.getLsbD_extractLsb', BitVec.getLsbD_append]
     interval_cases i <;> simp)

/-- A lane of XORIN's result (spec/20_memory.md R36, in lane terms). -/
@[simp] theorem getElem_xorin (A : Lanes) (p : Block) (j : Nat) (h : j < 25) :
    (xorin A p)[j] = if hj : j < 17 then A[j] ^^^ blockLane p ⟨j, hj⟩ else A[j] := by
  simp only [xorin, getElem_tabulate, Fin.getElem_fin]

/-- A byte of EXTRACT's result. -/
@[simp] theorem getElem_extract (A : Lanes) (i : Nat) (h : i < 32) :
    (extract A)[i] = sbByte A ⟨i, by omega⟩ := by
  simp only [extract, getElem_tabulate]

/-- Every lane of the zero state is zero. -/
@[simp] theorem laneAt_zeroLanes (x y : Fin 5) : laneAt zeroLanes x y = 0#64 := by
  simp only [laneAt, zeroLanes, Vector.getElem_replicate]

end Sys2Proof.Machine
end

