-- ==== Sys2Proof/Laws/State.lean ====
section
/-! SUPPORT. One lemma per field per update of State, so that no proof unfolds a record update. -/

namespace Sys2Proof.Machine

@[simp] theorem State.setLanes_lanes (s : State) (A : Lanes) : (s.setLanes A).lanes = A := rfl
@[simp] theorem State.setLanes_out (s : State) (A : Lanes) : (s.setLanes A).out = s.out := rfl
@[simp] theorem State.setLanes_phase (s : State) (A : Lanes) : (s.setLanes A).phase = s.phase := rfl
@[simp] theorem State.setLanes_dv (s : State) (A : Lanes) : (s.setLanes A).dv = s.dv := rfl
@[simp] theorem State.setLanes_err (s : State) (A : Lanes) : (s.setLanes A).err = s.err := rfl
@[simp] theorem State.setLanes_errCode (s : State) (A : Lanes) : (s.setLanes A).errCode = s.errCode := rfl
@[simp] theorem State.setLanes_errCmd (s : State) (A : Lanes) : (s.setLanes A).errCmd = s.errCmd := rfl
@[simp] theorem State.setLanes_requests (s : State) (A : Lanes) : (s.setLanes A).requests = s.requests := rfl
@[simp] theorem State.setLanes_reads (s : State) (A : Lanes) : (s.setLanes A).reads = s.reads := rfl
@[simp] theorem State.setLanes_freeCount (s : State) (A : Lanes) : (s.setLanes A).freeCount = s.freeCount := rfl
@[simp] theorem State.setLanes_microResult (s : State) (A : Lanes) : (s.setLanes A).microResult = s.microResult := rfl

@[simp] theorem State.setRequests_lanes (s : State) (rs : List HostRequest) :
    (s.setRequests rs).lanes = s.lanes := rfl
@[simp] theorem State.setRequests_out (s : State) (rs : List HostRequest) : (s.setRequests rs).out = s.out := rfl
@[simp] theorem State.setRequests_phase (s : State) (rs : List HostRequest) :
    (s.setRequests rs).phase = s.phase := rfl
@[simp] theorem State.setRequests_dv (s : State) (rs : List HostRequest) : (s.setRequests rs).dv = s.dv := rfl
@[simp] theorem State.setRequests_err (s : State) (rs : List HostRequest) : (s.setRequests rs).err = s.err := rfl
@[simp] theorem State.setRequests_errCode (s : State) (rs : List HostRequest) :
    (s.setRequests rs).errCode = s.errCode := rfl
@[simp] theorem State.setRequests_errCmd (s : State) (rs : List HostRequest) :
    (s.setRequests rs).errCmd = s.errCmd := rfl
@[simp] theorem State.setRequests_requests (s : State) (rs : List HostRequest) :
    (s.setRequests rs).requests = rs := rfl
@[simp] theorem State.setRequests_reads (s : State) (rs : List HostRequest) :
    (s.setRequests rs).reads = s.reads := rfl
@[simp] theorem State.setRequests_freeCount (s : State) (rs : List HostRequest) :
    (s.setRequests rs).freeCount = s.freeCount := rfl
@[simp] theorem State.setRequests_microResult (s : State) (rs : List HostRequest) :
    (s.setRequests rs).microResult = s.microResult := rfl

@[simp] theorem State.setMicroResult_lanes (s : State) (r : MicroResult) : (s.setMicroResult r).lanes = s.lanes := rfl
@[simp] theorem State.setMicroResult_out (s : State) (r : MicroResult) : (s.setMicroResult r).out = s.out := rfl
@[simp] theorem State.setMicroResult_phase (s : State) (r : MicroResult) : (s.setMicroResult r).phase = s.phase := rfl
@[simp] theorem State.setMicroResult_dv (s : State) (r : MicroResult) : (s.setMicroResult r).dv = s.dv := rfl
@[simp] theorem State.setMicroResult_err (s : State) (r : MicroResult) : (s.setMicroResult r).err = s.err := rfl
@[simp] theorem State.setMicroResult_errCode (s : State) (r : MicroResult) :
    (s.setMicroResult r).errCode = s.errCode := rfl
@[simp] theorem State.setMicroResult_errCmd (s : State) (r : MicroResult) :
    (s.setMicroResult r).errCmd = s.errCmd := rfl
@[simp] theorem State.setMicroResult_requests (s : State) (r : MicroResult) :
    (s.setMicroResult r).requests = s.requests := rfl
@[simp] theorem State.setMicroResult_reads (s : State) (r : MicroResult) : (s.setMicroResult r).reads = s.reads := rfl
@[simp] theorem State.setMicroResult_freeCount (s : State) (r : MicroResult) :
    (s.setMicroResult r).freeCount = s.freeCount := rfl
@[simp] theorem State.setMicroResult_microResult (s : State) (r : MicroResult) :
    (s.setMicroResult r).microResult = r := rfl

@[simp] theorem State.addRead_lanes (s : State) (r : HostRead) : (s.addRead r).lanes = s.lanes := rfl
@[simp] theorem State.addRead_out (s : State) (r : HostRead) : (s.addRead r).out = s.out := rfl
@[simp] theorem State.addRead_phase (s : State) (r : HostRead) : (s.addRead r).phase = s.phase := rfl
@[simp] theorem State.addRead_dv (s : State) (r : HostRead) : (s.addRead r).dv = s.dv := rfl
@[simp] theorem State.addRead_err (s : State) (r : HostRead) : (s.addRead r).err = s.err := rfl
@[simp] theorem State.addRead_errCode (s : State) (r : HostRead) : (s.addRead r).errCode = s.errCode := rfl
@[simp] theorem State.addRead_errCmd (s : State) (r : HostRead) : (s.addRead r).errCmd = s.errCmd := rfl
@[simp] theorem State.addRead_requests (s : State) (r : HostRead) : (s.addRead r).requests = s.requests := rfl
@[simp] theorem State.addRead_reads (s : State) (r : HostRead) : (s.addRead r).reads = s.reads ++ [r] := rfl
@[simp] theorem State.addRead_freeCount (s : State) (r : HostRead) : (s.addRead r).freeCount = s.freeCount := rfl
@[simp] theorem State.addRead_microResult (s : State) (r : HostRead) :
    (s.addRead r).microResult = s.microResult := rfl

@[simp] theorem State.drawFree_lanes (s : State) : (s.drawFree).lanes = s.lanes := rfl
@[simp] theorem State.drawFree_out (s : State) : (s.drawFree).out = s.out := rfl
@[simp] theorem State.drawFree_phase (s : State) : (s.drawFree).phase = s.phase := rfl
@[simp] theorem State.drawFree_dv (s : State) : (s.drawFree).dv = s.dv := rfl
@[simp] theorem State.drawFree_err (s : State) : (s.drawFree).err = s.err := rfl
@[simp] theorem State.drawFree_errCode (s : State) : (s.drawFree).errCode = s.errCode := rfl
@[simp] theorem State.drawFree_errCmd (s : State) : (s.drawFree).errCmd = s.errCmd := rfl
@[simp] theorem State.drawFree_requests (s : State) : (s.drawFree).requests = s.requests := rfl
@[simp] theorem State.drawFree_reads (s : State) : (s.drawFree).reads = s.reads := rfl
@[simp] theorem State.drawFree_freeCount (s : State) : (s.drawFree).freeCount = s.freeCount + 1 := rfl
@[simp] theorem State.drawFree_microResult (s : State) : (s.drawFree).microResult = s.microResult := rfl

@[simp] theorem State.takeFault_lanes (s : State) (c : FaultCode) (cmd : CmdWord) :
    (s.takeFault c cmd).lanes = s.lanes := rfl
@[simp] theorem State.takeFault_out (s : State) (c : FaultCode) (cmd : CmdWord) :
    (s.takeFault c cmd).out = s.out := rfl
@[simp] theorem State.takeFault_phase (s : State) (c : FaultCode) (cmd : CmdWord) :
    (s.takeFault c cmd).phase = s.phase := rfl
@[simp] theorem State.takeFault_dv (s : State) (c : FaultCode) (cmd : CmdWord) : (s.takeFault c cmd).dv = s.dv := rfl
@[simp] theorem State.takeFault_err (s : State) (c : FaultCode) (cmd : CmdWord) :
    (s.takeFault c cmd).err = true := rfl
@[simp] theorem State.takeFault_errCode (s : State) (c : FaultCode) (cmd : CmdWord) :
    (s.takeFault c cmd).errCode = faultBits c := rfl
@[simp] theorem State.takeFault_errCmd (s : State) (c : FaultCode) (cmd : CmdWord) :
    (s.takeFault c cmd).errCmd = cmd := rfl
@[simp] theorem State.takeFault_requests (s : State) (c : FaultCode) (cmd : CmdWord) :
    (s.takeFault c cmd).requests = s.requests := rfl
@[simp] theorem State.takeFault_reads (s : State) (c : FaultCode) (cmd : CmdWord) :
    (s.takeFault c cmd).reads = s.reads := rfl
@[simp] theorem State.takeFault_freeCount (s : State) (c : FaultCode) (cmd : CmdWord) :
    (s.takeFault c cmd).freeCount = s.freeCount := rfl
@[simp] theorem State.takeFault_microResult (s : State) (c : FaultCode) (cmd : CmdWord) :
    (s.takeFault c cmd).microResult = s.microResult := rfl

@[simp] theorem State.applyReset_lanes (s : State) : (s.applyReset).lanes = Config.resetLanes s.freeCount := rfl
@[simp] theorem State.applyReset_out (s : State) : (s.applyReset).out = Config.resetOut s.freeCount := rfl
@[simp] theorem State.applyReset_phase (s : State) : (s.applyReset).phase = .idle := rfl
@[simp] theorem State.applyReset_dv (s : State) : (s.applyReset).dv = false := rfl
@[simp] theorem State.applyReset_err (s : State) : (s.applyReset).err = false := rfl
@[simp] theorem State.applyReset_errCode (s : State) : (s.applyReset).errCode = 0 := rfl
@[simp] theorem State.applyReset_errCmd (s : State) : (s.applyReset).errCmd = 0 := rfl
@[simp] theorem State.applyReset_requests (s : State) : (s.applyReset).requests = s.requests := rfl
@[simp] theorem State.applyReset_reads (s : State) : (s.applyReset).reads = s.reads := rfl
@[simp] theorem State.applyReset_freeCount (s : State) : (s.applyReset).freeCount = s.freeCount + 1 := rfl
@[simp] theorem State.applyReset_microResult (s : State) : (s.applyReset).microResult = .none := rfl

@[simp] theorem performInit_lanes (s : State) : (performInit s).lanes = zeroLanes := rfl
@[simp] theorem performInit_out (s : State) : (performInit s).out = s.out := rfl
@[simp] theorem performInit_phase (s : State) : (performInit s).phase = .absorbing := rfl
@[simp] theorem performInit_dv (s : State) : (performInit s).dv = false := rfl
@[simp] theorem performInit_err (s : State) : (performInit s).err = s.err := rfl
@[simp] theorem performInit_errCode (s : State) : (performInit s).errCode = s.errCode := rfl
@[simp] theorem performInit_errCmd (s : State) : (performInit s).errCmd = s.errCmd := rfl
@[simp] theorem performInit_requests (s : State) : (performInit s).requests = s.requests := rfl
@[simp] theorem performInit_reads (s : State) : (performInit s).reads = s.reads := rfl
@[simp] theorem performInit_freeCount (s : State) : (performInit s).freeCount = s.freeCount := rfl
@[simp] theorem performInit_microResult (s : State) : (performInit s).microResult = s.microResult := rfl

@[simp] theorem performAbsorb_lanes (din : Block) (s : State) :
    (performAbsorb din s).lanes = absorbBlock s.lanes din :=
  rfl
@[simp] theorem performAbsorb_out (din : Block) (s : State) : (performAbsorb din s).out = s.out := rfl
@[simp] theorem performAbsorb_phase (din : Block) (s : State) : (performAbsorb din s).phase = s.phase := rfl
@[simp] theorem performAbsorb_dv (din : Block) (s : State) : (performAbsorb din s).dv = s.dv := rfl
@[simp] theorem performAbsorb_err (din : Block) (s : State) : (performAbsorb din s).err = s.err := rfl
@[simp] theorem performAbsorb_errCode (din : Block) (s : State) : (performAbsorb din s).errCode = s.errCode := rfl
@[simp] theorem performAbsorb_errCmd (din : Block) (s : State) : (performAbsorb din s).errCmd = s.errCmd := rfl
@[simp] theorem performAbsorb_requests (din : Block) (s : State) : (performAbsorb din s).requests = s.requests := rfl
@[simp] theorem performAbsorb_reads (din : Block) (s : State) : (performAbsorb din s).reads = s.reads := rfl
@[simp] theorem performAbsorb_freeCount (din : Block) (s : State) :
    (performAbsorb din s).freeCount = s.freeCount := rfl
@[simp] theorem performAbsorb_microResult (din : Block) (s : State) :
    (performAbsorb din s).microResult = s.microResult :=
  rfl

@[simp] theorem performFinal_lanes (len : BitVec 8) (din : Block) (s : State) :
    (performFinal len din s).lanes = absorbBlock s.lanes (padBlock din len.toNat) :=
  rfl
@[simp] theorem performFinal_out (len : BitVec 8) (din : Block) (s : State) : (performFinal len din s).out = s.out :=
  rfl
@[simp] theorem performFinal_phase (len : BitVec 8) (din : Block) (s : State) :
    (performFinal len din s).phase = .padded :=
  rfl
@[simp] theorem performFinal_dv (len : BitVec 8) (din : Block) (s : State) : (performFinal len din s).dv = s.dv := rfl
@[simp] theorem performFinal_err (len : BitVec 8) (din : Block) (s : State) : (performFinal len din s).err = s.err :=
  rfl
@[simp] theorem performFinal_errCode (len : BitVec 8) (din : Block) (s : State) :
    (performFinal len din s).errCode = s.errCode :=
  rfl
@[simp] theorem performFinal_errCmd (len : BitVec 8) (din : Block) (s : State) :
    (performFinal len din s).errCmd = s.errCmd :=
  rfl
@[simp] theorem performFinal_requests (len : BitVec 8) (din : Block) (s : State) :
    (performFinal len din s).requests = s.requests :=
  rfl
@[simp] theorem performFinal_reads (len : BitVec 8) (din : Block) (s : State) :
    (performFinal len din s).reads = s.reads :=
  rfl
@[simp] theorem performFinal_freeCount (len : BitVec 8) (din : Block) (s : State) :
    (performFinal len din s).freeCount = s.freeCount :=
  rfl
@[simp] theorem performFinal_microResult (len : BitVec 8) (din : Block) (s : State) :
    (performFinal len din s).microResult = s.microResult :=
  rfl

@[simp] theorem performSqueeze_lanes (s : State) : (performSqueeze s).lanes = s.lanes := rfl
@[simp] theorem performSqueeze_out (s : State) : (performSqueeze s).out = extract s.lanes := rfl
@[simp] theorem performSqueeze_phase (s : State) : (performSqueeze s).phase = .done := rfl
@[simp] theorem performSqueeze_dv (s : State) : (performSqueeze s).dv = true := rfl
@[simp] theorem performSqueeze_err (s : State) : (performSqueeze s).err = s.err := rfl
@[simp] theorem performSqueeze_errCode (s : State) : (performSqueeze s).errCode = s.errCode := rfl
@[simp] theorem performSqueeze_errCmd (s : State) : (performSqueeze s).errCmd = s.errCmd := rfl
@[simp] theorem performSqueeze_requests (s : State) : (performSqueeze s).requests = s.requests := rfl
@[simp] theorem performSqueeze_reads (s : State) : (performSqueeze s).reads = s.reads := rfl
@[simp] theorem performSqueeze_freeCount (s : State) : (performSqueeze s).freeCount = s.freeCount := rfl
@[simp] theorem performSqueeze_microResult (s : State) : (performSqueeze s).microResult = s.microResult := rfl

/-- Of two replacements of the requests the later one stands. -/
@[simp] theorem State.setRequests_setRequests (s : State) (rs rs' : List HostRequest) :
    (s.setRequests rs).setRequests rs' = s.setRequests rs' := rfl

/-- Two states with equal fields are equal. -/
theorem State.eq_of_fields (s t : State) (h1 : s.lanes = t.lanes) (h2 : s.out = t.out) (h3 : s.phase = t.phase)
    (h4 : s.dv = t.dv) (h5 : s.err = t.err) (h6 : s.errCode = t.errCode) (h7 : s.errCmd = t.errCmd)
    (h8 : s.requests = t.requests) (h9 : s.reads = t.reads) (h10 : s.freeCount = t.freeCount)
    (h11 : s.microResult = t.microResult) : s = t := by
  cases s; cases t; simp_all

end Sys2Proof.Machine
end

