-- ==== Sys2Proof/Laws/Ops.lean ====
section
/-! SUPPORT. What the shared operations of the controller can do. -/

namespace Sys2Proof.Machine

section Accept
variable {allowed : List Phase} {lenOk : Bool} {word : CmdWord} {perform : State → State} {s : State}

/-- While `err = 1` the command is dropped. -/
theorem acceptCommand_dropped (h : s.err = true) : acceptCommand allowed lenOk word perform s = s := by
  simp only [acceptCommand, h, ↓reduceIte]

/-- A phase outside the allowed set: fault PHASE. -/
theorem acceptCommand_phase (h : s.err = false) (hp : s.phase ∉ allowed) :
    acceptCommand allowed lenOk word perform s = s.takeFault .phase word := by
  simp only [acceptCommand, h, hp, Bool.false_eq_true, not_false_eq_true, ↓reduceIte]

/-- A length out of range, checked after the phase: fault LEN. -/
theorem acceptCommand_len (h : s.err = false) (hp : s.phase ∈ allowed) (hl : lenOk = false) :
    acceptCommand allowed lenOk word perform s = s.takeFault .len word := by
  simp only [acceptCommand, h, hp, hl, Bool.false_eq_true, not_true_eq_false, ↓reduceIte]

/-- The command is performed. -/
theorem acceptCommand_performed (h : s.err = false) (hp : s.phase ∈ allowed) (hl : lenOk = true) :
    acceptCommand allowed lenOk word perform s = perform s := by
  simp only [acceptCommand, h, hp, hl, Bool.false_eq_true, Bool.true_eq_false, not_true_eq_false, ↓reduceIte]

/-- Everything the acceptance of a command can do. -/
theorem acceptCommand_cases (allowed : List Phase) (lenOk : Bool) (word : CmdWord) (perform : State → State)
    (s : State) :
    (s.err = true ∧ acceptCommand allowed lenOk word perform s = s) ∨
    (s.err = false ∧ s.phase ∉ allowed ∧ acceptCommand allowed lenOk word perform s = s.takeFault .phase word) ∨
    (s.err = false ∧ s.phase ∈ allowed ∧ lenOk = false ∧
      acceptCommand allowed lenOk word perform s = s.takeFault .len word) ∨
    (s.err = false ∧ s.phase ∈ allowed ∧ lenOk = true ∧ acceptCommand allowed lenOk word perform s = perform s) := by
  cases he : s.err
  · by_cases hp : s.phase ∈ allowed
    · cases hl : lenOk
      · exact .inr (.inr (.inl ⟨rfl, hp, rfl, acceptCommand_len he hp rfl⟩))
      · exact .inr (.inr (.inr ⟨rfl, hp, rfl, acceptCommand_performed he hp rfl⟩))
    · exact .inr (.inl ⟨rfl, hp, acceptCommand_phase he hp⟩)
  · exact .inl ⟨rfl, acceptCommand_dropped he⟩

/-- The host's pending requests have no part in the acceptance of a command that does not touch them. -/
theorem acceptCommand_setRequests (hf : ∀ s rs, perform (s.setRequests rs) = (perform s).setRequests rs)
    (s : State) (rs : List HostRequest) :
    acceptCommand allowed lenOk word perform (s.setRequests rs) =
      (acceptCommand allowed lenOk word perform s).setRequests rs := by
  unfold acceptCommand
  simp only [State.setRequests_err, State.setRequests_phase, hf]
  split_ifs <;> rfl

end Accept

/-- A read of OUT adds one answer, which is `OUT` while `dv = 1`, and changes nothing else but the count of free values.
-/
theorem answerOut_cases (s : State) :
    (s.dv = true ∧ s.answerOut = s.addRead (.out s.out)) ∨
    (s.dv = false ∧ ∃ d, s.answerOut = (s.addRead (.out d)).drawFree) := by
  cases h : s.dv
  · exact .inr ⟨rfl, Config.undefinedOut s.freeCount, by simp only [State.answerOut, h, Bool.false_eq_true, ↓reduceIte]⟩
  · exact .inl ⟨rfl, by simp only [State.answerOut, h, ↓reduceIte]⟩

/-- Everything the arrival of a command word can be. -/
theorem receive_cases (cmd : CmdWord) (din : Block) (s : State) :
    (s.err = true ∧ receive cmd din s = .settled s) ∨
    (s.err = false ∧ ∃ c, decode cmd din = .error c ∧ receive cmd din s = .settled (s.takeFault c cmd)) ∨
    (s.err = false ∧ ∃ i, decode cmd din = .ok i ∧ receive cmd din s = .run i s) := by
  cases he : s.err
  · cases hd : decode cmd din
    · exact .inr (.inl ⟨rfl, _, rfl, by simp only [receive, he, hd, Bool.false_eq_true, ↓reduceIte]⟩)
    · exact .inr (.inr ⟨rfl, _, rfl, by simp only [receive, he, hd, Bool.false_eq_true, ↓reduceIte]⟩)
  · exact .inl ⟨rfl, by simp only [receive, he, ↓reduceIte]⟩

/-- A command word arrives. -/
@[simp] theorem serve_command (cmd : CmdWord) (din : Block) (s : State) :
    serve (.command cmd din) s = receive cmd din s := rfl

/-- A read of STATUS is answered. -/
@[simp] theorem serve_readStatus (s : State) : serve .readStatus s = .settled s.answerStatus := rfl

/-- A read of OUT is answered. -/
@[simp] theorem serve_readOut (s : State) : serve .readOut s = .settled s.answerOut := rfl

/-- Reset. -/
@[simp] theorem serve_reset (s : State) : serve .reset s = .settled s.applyReset := rfl

/-- Reset during a command: the command is abandoned. -/
@[simp] theorem serve_resetDuring (cmd : CmdWord) (din : Block) (s : State) :
    serve (.resetDuring cmd din) s = .settled s.applyReset := rfl

/-- With nothing requested the engine does nothing. -/
theorem fetch_idle {s : State} (h : s.requests = []) : fetch s = .settled s := by
  simp only [fetch, h]

/-- The oldest request is served in the state without it. -/
theorem fetch_request {s : State} {r : HostRequest} {rs : List HostRequest} (h : s.requests = r :: rs) :
    fetch s = serve r (s.setRequests rs) := by
  simp only [fetch, h]

/-- A step that settles its request. -/
theorem step_of_settled {s t : State} (h : fetch s = .settled t) : step s = .next t := by
  simp only [step, h]

/-- A step that runs an instruction. -/
theorem step_of_run {s t : State} {i : Instr} (h : fetch s = .run i t) : step s = exec i t := by
  simp only [step, h]

/-- Everything a step can be: nothing to do, a command dropped, a command that does not decode, a command executed, a
read, or a reset. -/
theorem step_cases (s : State) :
    (s.requests = [] ∧ step s = .next s) ∨
    ∃ r rs, s.requests = r :: rs ∧
      ((∃ cmd din, r = .command cmd din ∧ s.err = true ∧ step s = .next (s.setRequests rs)) ∨
       (∃ cmd din c, r = .command cmd din ∧ s.err = false ∧ decode cmd din = .error c ∧
          step s = .next ((s.setRequests rs).takeFault c cmd)) ∨
       (∃ cmd din i, r = .command cmd din ∧ s.err = false ∧ decode cmd din = .ok i ∧
          step s = exec i (s.setRequests rs)) ∨
       (r = .readStatus ∧ step s = .next (s.setRequests rs).answerStatus) ∨
       (r = .readOut ∧ step s = .next (s.setRequests rs).answerOut) ∨
       ((r = .reset ∨ ∃ cmd din, r = .resetDuring cmd din) ∧ step s = .next (s.setRequests rs).applyReset)) := by
  cases hr : s.requests with
  | nil => exact .inl ⟨rfl, step_of_settled (fetch_idle hr)⟩
  | cons r rs =>
    refine .inr ⟨r, rs, rfl, ?_⟩
    have hf := fetch_request hr
    cases r with
    | command cmd din =>
      rcases receive_cases cmd din (s.setRequests rs) with ⟨he, h⟩ | ⟨he, c, hd, h⟩ | ⟨he, i, hd, h⟩
      · exact .inl ⟨cmd, din, rfl, he, step_of_settled (hf.trans h)⟩
      · exact .inr (.inl ⟨cmd, din, c, rfl, he, hd, step_of_settled (hf.trans h)⟩)
      · exact .inr (.inr (.inl ⟨cmd, din, i, rfl, he, hd, step_of_run (hf.trans h)⟩))
    | readStatus => exact .inr (.inr (.inr (.inl ⟨rfl, step_of_settled hf⟩)))
    | readOut => exact .inr (.inr (.inr (.inr (.inl ⟨rfl, step_of_settled hf⟩))))
    | reset => exact .inr (.inr (.inr (.inr (.inr ⟨.inl rfl, step_of_settled hf⟩))))
    | resetDuring cmd din =>
      exact .inr (.inr (.inr (.inr (.inr ⟨.inr ⟨cmd, din, rfl⟩, step_of_settled hf⟩))))

end Sys2Proof.Machine
end

