-- ==== Sys2Proof/Laws/PerInstr.lean ====
section
/-! SUPPORT. Statements made per instruction. `Issuable`: an instruction has a command word exactly if it is one of the
host's commands, and that word has a legal opcode and a zero reserved field (spec/30_encoding.md R50, R51, R58). -/

namespace Sys2Proof.Laws.Issuable

/-- An instruction has a word exactly if it is a command, and the word's opcode is legal and its reserved field zero. -/
def Statement (i : Instr) : Prop :=
  (encode i).isSome = i.isCommand ∧
    ∀ c, encode i = some c → opField c.1 ∈ [1#4, 2#4, 3#4, 4#4] ∧ rsvField c.1 = 0#4

/-- The shared proof for an instruction with a word made of legal fields. -/
theorem of_word {i : Instr} {w : CmdWord} {b : Block} (he : encode i = some (w, b)) (hc : i.isCommand = true)
    (hop : opField w ∈ [1#4, 2#4, 3#4, 4#4]) (hr : rsvField w = 0#4) : Statement i := by
  refine ⟨by rw [he, hc]; rfl, fun c h => ?_⟩
  rw [he] at h
  cases h
  exact ⟨hop, hr⟩

/-- The shared proof for an instruction without a word. -/
theorem of_none {i : Instr} (he : encode i = none) (hc : i.isCommand = false) : Statement i := by
  refine ⟨by rw [he, hc]; rfl, fun c h => ?_⟩
  rw [he] at h
  cases h

theorem init : Statement .init := of_word rfl rfl (by decide) (by decide)
theorem absorb (din : Block) : Statement (.absorb din) := of_word rfl rfl (by decide) (by decide)
theorem final (len : BitVec 8) (din : Block) : Statement (.final len din) :=
  of_word rfl rfl (by simp only [finalWord, opField_makeWord]; decide) (by simp only [finalWord, rsvField_makeWord])
theorem squeeze : Statement .squeeze := of_word rfl rfl (by decide) (by decide)
theorem theta : Statement .theta := of_none rfl rfl
theorem rho : Statement .rho := of_none rfl rfl
theorem pi : Statement .pi := of_none rfl rfl
theorem chi : Statement .chi := of_none rfl rfl
theorem iota (ir : Fin 24) : Statement (.iota ir) := of_none rfl rfl
theorem round (ir : Fin 24) : Statement (.round ir) := of_none rfl rfl
theorem permute : Statement .permute := of_none rfl rfl
theorem pad (n : Fin 136) (din : Block) : Statement (.pad n din) := of_none rfl rfl
theorem xorin (p : Block) : Statement (.xorin p) := of_none rfl rfl
theorem extract : Statement .extract := of_none rfl rfl
theorem hash (arg : MessageArg) : Statement (.hash arg) := of_none rfl rfl

end Sys2Proof.Laws.Issuable
end

