-- ==== Sys2Proof/Laws/Permutation.lean ====
section
/-! SUPPORT. The step mappings lane by lane. -/

namespace Sys2Proof.Machine

@[simp] theorem laneAt_thetaStep (A : Lanes) (x y : Fin 5) :
    laneAt (thetaStep A) x y = laneAt A x y ^^^ thetaMix A x := laneAt_ofGrid _ x y

@[simp] theorem laneAt_rhoStep (A : Lanes) (x y : Fin 5) :
    laneAt (rhoStep A) x y = (laneAt A x y).rotateLeft (rhoOffset x y) := laneAt_ofGrid _ x y

@[simp] theorem laneAt_piStep (A : Lanes) (x y : Fin 5) : laneAt (piStep A) x y = laneAt A (x + 3 * y) x :=
  laneAt_ofGrid _ x y

@[simp] theorem laneAt_chiStep (A : Lanes) (x y : Fin 5) :
    laneAt (chiStep A) x y = laneAt A x y ^^^ (~~~(laneAt A (x + 1) y) &&& laneAt A (x + 2) y) := laneAt_ofGrid _ x y

@[simp] theorem laneAt_iotaStep (A : Lanes) (ir : Fin 24) (x y : Fin 5) :
    laneAt (iotaStep A ir) x y = if x = 0 ∧ y = 0 then laneAt A x y ^^^ roundConstant ir else laneAt A x y :=
  laneAt_ofGrid _ x y

/-- A fold of maps that are each bijective is bijective. -/
theorem foldl_bijective {α β : Type} {f : α → β → α} (hf : ∀ b, Function.Bijective fun a => f a b) (bs : List β) :
    Function.Bijective fun a => bs.foldl f a := by
  induction bs with
  | nil => exact Function.bijective_id
  | cons b bs ih => exact ih.comp (hf b)

end Sys2Proof.Machine
end

