-- ==== Sys2Proof/Laws/Sponge.lean ====
section
/-! SUPPORT. What the four commands do when they are accepted, dropped or faulted, and the small lemmas of the padder
and of the message's blocks. -/

namespace Sys2Proof.Machine

/-- A byte of PAD's result. -/
@[simp] theorem getElem_padBlock (din : Block) (n i : Nat) (h : i < 136) :
    (padBlock din n)[i] = (if i < n then din[i] else 0x00#8) ^^^ (if i = n then 0x01#8 else 0x00#8)
      ^^^ (if i = 135 then 0x80#8 else 0x00#8) := by
  simp only [padBlock, getElem_tabulate, Fin.getElem_fin]

/-- PAD reads only the first `n` bytes of its block. -/
theorem padBlock_congr {d d' : Block} {n : Nat} (h : ∀ i : Fin 136, i.val < n → d[i] = d'[i]) :
    padBlock d n = padBlock d' n := by
  apply Vector.ext
  intro i hi
  rw [getElem_padBlock, getElem_padBlock]
  by_cases hn : i < n
  · have e : d[i] = d'[i] := h ⟨i, hi⟩ hn
    simp only [hn, ↓reduceIte, e]
  · simp only [hn, ↓reduceIte]

/-- A byte of a message block that lies inside the message is the message's. -/
theorem getElem_messageBlock (fill : Block) (m : List Byte) (j i : Nat) (h : i < 136) (hm : 136 * j + i < m.length) :
    (messageBlock fill m j)[i] = m[136 * j + i] := by
  simp only [messageBlock, getElem_tabulate, List.getD_eq_getElem?_getD, List.getElem?_eq_getElem hm,
    Option.getD_some]

/-- The count of the message's full blocks. -/
@[simp] theorem messageBlocks_length (fill : Block) (m : List Byte) :
    (messageBlocks fill m).length = m.length / 136 := by
  simp only [messageBlocks, fullBlocks, List.length_map, List.length_range]

/-- The length field of HASH's FINAL is the message's tail length. -/
@[simp] theorem tailLength_toNat (m : List Byte) : (tailLength m).toNat = m.length % 136 := by
  simp only [tailLength, BitVec.toNat_ofNat]
  omega

/-- The initial lanes absorb nothing. -/
@[simp] theorem absorbAll_nil : absorbAll [] = zeroLanes := rfl

/-- One more block. -/
theorem absorbAll_append (bs : List Block) (b : Block) : absorbAll (bs ++ [b]) = absorbBlock (absorbAll bs) b := by
  simp only [absorbAll, List.foldl_append, List.foldl_cons, List.foldl_nil]

/-- INIT is performed whenever no fault is recorded: its allowed set is every phase. -/
theorem initCommand_performed {s : State} (h : s.err = false) : initCommand s = performInit s := by
  apply acceptCommand_performed h _ rfl
  cases s.phase <;> decide

/-- ABSORB is performed in ABSORBING. -/
theorem absorbCommand_performed {s : State} (din : Block) (h : s.err = false) (hp : s.phase = .absorbing) :
    absorbCommand din s = performAbsorb din s :=
  acceptCommand_performed h (by rw [hp]; decide) rfl

/-- FINAL with a length in range is performed in ABSORBING. -/
theorem finalCommand_performed {s : State} (len : BitVec 8) (din : Block) (h : s.err = false)
    (hp : s.phase = .absorbing) (hl : len.toNat ≤ 135) : finalCommand len din s = performFinal len din s :=
  acceptCommand_performed h (by rw [hp]; decide) (decide_eq_true hl)

/-- SQUEEZE is performed in PADDED. -/
theorem squeezeCommand_performed {s : State} (h : s.err = false) (hp : s.phase = .padded) :
    squeezeCommand s = performSqueeze s :=
  acceptCommand_performed h (by rw [hp]; decide) rfl

/-- Everything INIT can do: dropped, or performed. -/
theorem initCommand_cases (s : State) :
    (s.err = true ∧ initCommand s = s) ∨ (s.err = false ∧ initCommand s = performInit s) := by
  cases h : s.err
  · exact .inr ⟨rfl, initCommand_performed h⟩
  · exact .inl ⟨rfl, acceptCommand_dropped h⟩

/-- Everything ABSORB can do: dropped, fault PHASE, or performed. -/
theorem absorbCommand_cases (din : Block) (s : State) :
    (s.err = true ∧ absorbCommand din s = s) ∨
    (s.err = false ∧ s.phase ≠ .absorbing ∧ absorbCommand din s = s.takeFault .phase absorbWord) ∨
    (s.err = false ∧ s.phase = .absorbing ∧ absorbCommand din s = performAbsorb din s) := by
  rcases acceptCommand_cases absorbAllowed true absorbWord (performAbsorb din) s with
    ⟨he, e⟩ | ⟨he, hp, e⟩ | ⟨_, _, hl, _⟩ | ⟨he, hp, _, e⟩
  · exact .inl ⟨he, e⟩
  · exact .inr (.inl ⟨he, fun h => hp (by rw [h]; decide), e⟩)
  · cases hl
  · exact .inr (.inr ⟨he, List.mem_singleton.mp hp, e⟩)

/-- Everything FINAL can do: dropped, fault PHASE, fault LEN, or performed. -/
theorem finalCommand_cases (len : BitVec 8) (din : Block) (s : State) :
    (s.err = true ∧ finalCommand len din s = s) ∨
    (s.err = false ∧ s.phase ≠ .absorbing ∧ finalCommand len din s = s.takeFault .phase (finalWord len)) ∨
    (s.err = false ∧ s.phase = .absorbing ∧ 135 < len.toNat ∧
      finalCommand len din s = s.takeFault .len (finalWord len)) ∨
    (s.err = false ∧ s.phase = .absorbing ∧ len.toNat ≤ 135 ∧ finalCommand len din s = performFinal len din s) := by
  rcases acceptCommand_cases absorbAllowed (finalLenOk len) (finalWord len) (performFinal len din) s with
    ⟨he, e⟩ | ⟨he, hp, e⟩ | ⟨he, hp, hl, e⟩ | ⟨he, hp, hl, e⟩
  · exact .inl ⟨he, e⟩
  · exact .inr (.inl ⟨he, fun h => hp (by rw [h]; decide), e⟩)
  · exact .inr (.inr (.inl ⟨he, List.mem_singleton.mp hp, Nat.lt_of_not_le (of_decide_eq_false hl), e⟩))
  · exact .inr (.inr (.inr ⟨he, List.mem_singleton.mp hp, of_decide_eq_true hl, e⟩))

/-- Everything SQUEEZE can do: dropped, fault PHASE, or performed. -/
theorem squeezeCommand_cases (s : State) :
    (s.err = true ∧ squeezeCommand s = s) ∨
    (s.err = false ∧ s.phase ≠ .padded ∧ squeezeCommand s = s.takeFault .phase squeezeWord) ∨
    (s.err = false ∧ s.phase = .padded ∧ squeezeCommand s = performSqueeze s) := by
  rcases acceptCommand_cases squeezeAllowed true squeezeWord performSqueeze s with
    ⟨he, e⟩ | ⟨he, hp, e⟩ | ⟨_, _, hl, _⟩ | ⟨he, hp, _, e⟩
  · exact .inl ⟨he, e⟩
  · exact .inr (.inl ⟨he, fun h => hp (by rw [h]; decide), e⟩)
  · cases hl
  · exact .inr (.inr ⟨he, List.mem_singleton.mp hp, e⟩)

end Sys2Proof.Machine
end

