-- ==== Sys2Proof/Tests/Slice0.lean ====
section
/-! SUPPORT. Tests of single steps, with expected values from spec/95_test_vectors.md (each test names its series), and
for every statement with hypotheses a witness that meets them, at the boundaries where its clauses meet. -/

namespace Sys2Proof.Tests

open Sys2Proof Sys2Proof.Machine

/-! ### Helpers -/

/-- A state with zero lanes and `OUT`, in a given phase, with the host's requests. -/
def testState (phase : Phase) (requests : List HostRequest) : State where
  lanes := zeroLanes
  out := Vector.replicate 32 0#8
  phase := phase
  dv := decide (phase = .done)
  err := false
  errCode := 0
  errCmd := 0
  requests := requests
  reads := []
  freeCount := 0
  microResult := .none

/-- The same with other lanes. -/
def withLanes (A : Lanes) : State := (testState .absorbing []).setLanes A

/-- The same with a recorded PHASE fault of ABSORB. -/
def faulted (requests : List HostRequest) : State := (testState .idle requests).takeFault .phase 0x2000#16

/-- What `f` shows of the next state, if there is one. -/
def answer {α : Type} (o : Host.Outcome State Fault Refusal) (f : State → α) : Option α :=
  match o with
  | .next t => some (f t)
  | .fault _ => none
  | .refused _ => none

/-- The lanes that are not zero, with their linear index. -/
def nonzeroLanes (A : Lanes) : List (Nat × Nat) :=
  ((List.range 25).zip (A.toList.map BitVec.toNat)).filter fun p => p.2 ≠ 0

/-- The lanes the P-series prints: 0 to 3, 16 and 24. -/
def shownLanes (A : Lanes) : List Nat :=
  (((List.range 25).zip (A.toList.map BitVec.toNat)).filter fun p => p.1 < 4 ∨ p.1 = 16 ∨ p.1 = 24).map Prod.snd

/-- Bytes as the number their hex print spells, first byte first (spec/00_scope.md R7). -/
def hexOf (bs : List Byte) : Nat := bs.foldl (fun v b => 256 * v + b.toNat) 0

/-- The block `DIN[i] = first + i`. -/
def countingBlock (first : Nat) : Block := Vector.ofFn fun i => BitVec.ofNat 8 (first + i.val)

/-- The block with the given first bytes and zeros after them. -/
def blockOf (bs : List Byte) : Block := Vector.ofFn fun i => bs.getD i.val 0#8

/-- Lanes with the given first lanes and zeros after them. -/
def lanesOf (ls : List Nat) : Lanes := Vector.ofFn fun j => BitVec.ofNat 64 (ls.getD j.val 0)

/-- The STATUS word after one word issued in a phase with no fault recorded, a zero block on DIN. -/
def statusAfter (phase : Phase) (word : CmdWord) : Option StatusWord :=
  answer (step (testState phase [.command word zeroBlock])) statusWord

/-! ### Well-formedness: the one check, refused and accepted -/

/-- R124, U3. -/
theorem test_null_buffer_is_ill_formed : Instr.wellFormed (.hash (.null 5)) = false := by decide
theorem test_null_buffer_of_length_zero_is_well_formed : Instr.wellFormed (.hash (.null 0)) = true := by decide

/-! ### Decoding: words written out from the table of R51, op, rsv, len -/

theorem test_decode_init (d : Block) : decode 0b0001_0000_00000000#16 d = .ok .init := rfl
theorem test_decode_absorb (d : Block) : decode 0b0010_0000_00000000#16 d = .ok (.absorb d) := rfl
theorem test_decode_final (d : Block) : decode 0b0011_0000_10000111#16 d = .ok (.final 135#8 d) := rfl
theorem test_decode_final_out_of_range (d : Block) : decode 0b0011_0000_11111111#16 d = .ok (.final 255#8 d) := rfl
theorem test_decode_squeeze (d : Block) : decode 0b0100_0000_00000000#16 d = .ok .squeeze := rfl
theorem test_decode_illegal_opcodes : ∀ d : Block,
    [0x0000#16, 0x5000#16, 0x5FFF#16, 0xF1FF#16].map (fun w => decode w d) = List.replicate 4 (.error .illop) :=
  fun _ => rfl
theorem test_decode_reserved_fields : ∀ d : Block,
    [0x1100#16, 0x1001#16, 0x2001#16, 0x31FF#16, 0x4001#16].map (fun w => decode w d) =
      List.replicate 5 (.error .rsvd) := fun _ => rfl
theorem test_decodeTableWord : decodeTableWord 16 0x4000 = some .squeeze ∧ decodeTableWord 16 0x31FF = none :=
  ⟨rfl, rfl⟩

/-- `withFetchWord` puts the word where the next step receives it, from reset: ABSORB faults there (P5, F20). -/
theorem test_withFetchWord_from_reset :
    answer (step (State.reset.withFetchWord 16 0x2000)) statusWord = some 0x20000038#32 := by decide +kernel

/-! ### The commands -/

/-- R101, in DONE: INIT zeroes the lanes, clears `dv` and keeps `OUT`. -/
theorem test_init_in_done :
    answer (exec .init { testState .done [] with lanes := lanesOf [7], out := Vector.replicate 32 0xAB#8 })
      (fun t => (t.phase, t.dv, nonzeroLanes t.lanes, hexOf (t.out.toList.take 2))) =
      some (.absorbing, false, [], 0xABAB) := by
  decide +kernel

/-- R102: ABSORB in ABSORBING is XORIN (X1), then PERMUTE, and the phase stays. -/
theorem test_absorb_is_xorin_then_permute (d : Block) (A : Lanes) :
    answer (exec (.absorb d) (withLanes A)) (fun t => (t.phase, t.lanes)) =
      some (.absorbing, permute (xorin A d)) := rfl

/-- P1, step 3: SQUEEZE of the lanes step 2 leaves gives D1, whose first 63 digits the source prints. -/
theorem test_squeeze_empty_message :
    answer (exec .squeeze ((testState .padded []).setLanes (lanesOf [0x3C23F7860146D2C5, 0xC003C7DCB27D7E92,
      0x3B2782CA53B600E5, 0x70A4855D04D8FA7B]))) (fun t => (t.phase, t.dv, hexOf t.out.toList)) =
      some (.done, true, 0xc5d2460186f7233c927e7db2dcc703c0e500b653ca82273b7bfad8045d85a470) := by
  with_unfolding_all rfl

/-- P4: the commands of 137 bytes `M[i] = i`, with the first and last byte of each block. -/
theorem test_hash_commands_two_blocks :
    (hashCommands zeroBlock ((List.range 137).map (BitVec.ofNat 8))).filterMap
        (fun i => (encode i).map fun c => (c.1, c.2[0], c.2[135])) =
      [(0x1000#16, 0x00#8, 0x00#8), (0x2000#16, 0x00#8, 0x87#8), (0x3001#16, 0x88#8, 0x00#8),
        (0x4000#16, 0x00#8, 0x00#8)] := by
  decide +kernel

/-- R124: the null buffer of length 0 is the empty message. -/
theorem test_hash_null_empty (s : State) : exec (.hash (.null 0)) s = exec (.hash (.bytes [])) s := rfl

/-! ### Faults and reset: the last word of each row of the F-series, in the phase the words before it leave -/

/-- F12, F13, F14, F11: ILLOP, before every other check; F9, F15, F18, F19 and F10, F16, F17: RSVD, before PHASE and
LEN. -/
theorem test_illop_and_rsvd :
    [0x0000#16, 0x5000#16, 0xF1FF#16, 0x5FFF#16, 0x31FF#16, 0x1001#16, 0x4001#16, 0x2100#16].map (statusAfter .idle) =
      [some 0x00000018#32, some 0x50000018#32, some 0xF1FF0018#32, some 0x5FFF0018#32, some 0x31FF0028#32,
        some 0x10010028#32, some 0x40010028#32, some 0x21000028#32] ∧
    [0x31FF#16, 0x1100#16, 0x2001#16].map (statusAfter .absorbing) =
      [some 0x31FF0029#32, some 0x11000029#32, some 0x20010029#32] := by
  decide +kernel

/-- F8 and F20 to F28: PHASE, before LEN, in each of the nine cells of the phase table; F6, F7: LEN, whose boundary is
F5. -/
theorem test_phase_and_len :
    [0x30FF#16, 0x2000#16, 0x3000#16, 0x4000#16].map (statusAfter .idle) =
      [some 0x30FF0038#32, some 0x20000038#32, some 0x30000038#32, some 0x40000038#32] ∧
    statusAfter .absorbing 0x4000#16 = some 0x40000039#32 ∧
    [0x2000#16, 0x3000#16].map (statusAfter .padded) = [some 0x2000003A#32, some 0x3000003A#32] ∧
    [0x2000#16, 0x3000#16, 0x4000#16].map (statusAfter .done) =
      [some 0x2000003F#32, some 0x3000003F#32, some 0x4000003F#32] ∧
    [0x3088#16, 0x30FF#16, 0x3087#16].map (statusAfter .absorbing) =
      [some 0x30880049#32, some 0x30FF0049#32, some 0x00000002#32] := by
  decide +kernel

/-- F1, F29, F30, F4: INIT in every phase; F2 and F3. -/
theorem test_accepted :
    [Phase.idle, .absorbing, .padded, .done].map (fun p => statusAfter p 0x1000#16) =
      List.replicate 4 (some 0x00000001#32) ∧
    statusAfter .absorbing 0x3000#16 = some 0x00000002#32 ∧ statusAfter .padded 0x4000#16 = some 0x00000007#32 := by
  decide +kernel

/-- P5, steps 2 and 3: commands after a fault are dropped; R160: a reset then clears the record. -/
theorem test_dropped_until_reset : [HostRequest.command 0x1000#16 zeroBlock, .command 0x4000#16 zeroBlock, .reset].map
    (fun r => answer (step (faulted [r])) statusWord) =
      [some 0x20000038#32, some 0x20000038#32, some 0x00000000#32] := by
  decide +kernel

/-- R19, R20: OUT read while `dv = 1` is `OUT`; STATUS reads as in F3. -/
theorem test_reads_in_done :
    answer (step (testState .done [.readStatus])) (fun t => t.reads) = some [.status 0x00000007#32] ∧
    answer (step (testState .done [.readOut])) (fun t => t.reads) = some [.out (Vector.replicate 32 0#8)] := by
  decide +kernel

/-- R124, U3: the null buffer with nonzero length is refused. -/
theorem test_hash_null_refused : answer (exec (.hash (.null 5)) (testState .idle [])) statusWord = none :=
  rfl

/-! ### Witnesses: states and operands that meet the hypotheses of the statements, named after them -/

theorem test_witness_ResetRequestFromEveryState :
    (faulted [.reset, .readOut]).requests = .reset :: [.readOut] ∧ HostRequest.reset.isReset = true ∧
      (HostRequest.resetDuring 0x2000#16 zeroBlock).isReset = true :=
  ⟨rfl, rfl, rfl⟩

/-- A step from a faulted state after which `err` is clear. -/
theorem test_witness_OnlyResetClearsErr : (faulted [.reset]).err = true ∧
    step (faulted [.reset]) = .next (faulted []).applyReset ∧ (faulted []).applyReset.err = false :=
  ⟨rfl, rfl, rfl⟩

/-- One word at each side of each clause of DecodeIsTotalByFields: opcodes 0, 1, 4, 5; reserved field and length. -/
theorem test_witness_DecodeIsTotalByFields (d : Block) :
    decode 0x0FFF#16 d = .error .illop ∧ decode 0x1000#16 d = .ok .init ∧ decode 0x10FF#16 d = .error .rsvd ∧
      decode 0x3000#16 d = .ok (.final 0#8 d) ∧ decode 0x3100#16 d = .error .rsvd ∧
      decode 0x4000#16 d = .ok .squeeze ∧ decode 0x5000#16 d = .error .illop :=
  ⟨rfl, rfl, rfl, rfl, rfl, rfl, rfl⟩

/-- The legal words' boundaries (R54). -/
theorem test_witness_ExactlyOneHundredThirtyNineLegalWords :
    [0x0FFF, 0x1000, 0x1001, 0x1FFF, 0x2000, 0x2001, 0x2FFF, 0x3000, 0x3087, 0x3088, 0x3FFF, 0x4000, 0x4001,
        65535].map legalWord =
      [false, true, false, false, true, false, false, true, true, false, false, true, false, false] := by
  decide +kernel

theorem test_witness_DecodeEncodeRoundTrip :
    (Instr.final 255#8 zeroBlock).isCommand = true ∧
      decode 0x30FF#16 zeroBlock = .ok (.final 255#8 zeroBlock) ∧ (Instr.hash (.bytes [])).isCommand = false :=
  ⟨rfl, rfl, rfl⟩

theorem test_witness_StepRunsTheDecodedCommand :
    (testState .absorbing [.command 0x3088#16 zeroBlock]).requests = [.command 0x3088#16 zeroBlock] ∧
      decode 0x3088#16 zeroBlock = .ok (.final 136#8 zeroBlock) :=
  ⟨rfl, rfl⟩

theorem test_witness_EveryStepCompletesInOrder : (testState .idle []).requests = [] := rfl

/-- Each clause of ReadsHaveNoSideEffect: STATUS, and OUT with `dv` clear and set. -/
theorem test_witness_ReadsHaveNoSideEffect :
    (testState .idle [.readStatus]).requests = [.readStatus] ∧ (testState .absorbing [.readOut]).dv = false ∧
      (testState .done [.readOut]).requests = [.readOut] ∧ (testState .done [.readOut]).dv = true :=
  ⟨rfl, rfl, rfl, rfl⟩

/-- Other coordinates than the origin, which PiMovesEachLane, IotaChangesOnlyTheOrigin and RhoTableRegenerates ask for:
the first and the last of the walk, next to the origin and far from it. -/
theorem test_witness_other_coordinates :
    ¬((1 : Fin 5) = 0 ∧ (0 : Fin 5) = 0) ∧ rhoWalk 0 = (1, 0) ∧ ¬((0 : Fin 5) = 0 ∧ (1 : Fin 5) = 0) ∧
      rhoWalk 23 = (1, 1) ∧ rhoWalk 7 = (0, 1) ∧ rhoWalk 11 = (4, 4) :=
  ⟨by decide, rfl, by decide, rfl, rfl, rfl⟩

/-- Two blocks that agree in the bytes FINAL uses and differ after them, and a length of 135. -/
theorem test_witness_FinalIgnoresBytesAfterLen :
    (∀ i : Fin 136, i.val < (3#8).toNat → zeroBlock[i] = (zeroBlock.set 3 9#8)[i]) ∧
      zeroBlock[3] ≠ (zeroBlock.set 3 9#8)[3] ∧
      (∀ i : Fin 136, i.val < (135#8).toNat → zeroBlock[i] = (zeroBlock.set 135 9#8)[i]) := by
  refine ⟨fun i hi => ?_, by simp [zeroBlock], fun i hi => ?_⟩ <;>
    · simp only [Fin.getElem_fin, Vector.getElem_set]
      rw [if_neg (by simp at hi; omega)]

/-- Lengths at the block boundary (S3): 135 gives 136, 136 gives 272. -/
theorem test_witness_PaddedStreamLength :
    [0, 135, 136, 271, 272].map (fun l => (paddedStream (List.replicate l 0#8)).length) = [136, 136, 272, 272, 408] ∧
      136 ∣ 272 ∧ (List.replicate 136 0#8).length + 1 ≤ 272 := by
  decide +kernel

/-- The states in which each command is accepted, and the longest length FINAL takes. -/
theorem test_witness_InitZeroesTheLanes : (testState .idle []).err = false := rfl
theorem test_witness_AbsorbXorsAndPermutes :
    (testState .absorbing []).err = false ∧ (testState .absorbing []).phase = .absorbing := ⟨rfl, rfl⟩
theorem test_witness_FinalPadsAndPermutes : (testState .absorbing []).err = false ∧
    (testState .absorbing []).phase = .absorbing ∧ (135#8).toNat ≤ 135 := ⟨rfl, rfl, by decide⟩
theorem test_witness_SqueezeDeliversTheDigest :
    (testState .padded []).err = false ∧ (testState .padded []).phase = .padded := ⟨rfl, rfl⟩

/-- Each clause of PhaseTableOfTheCommands, with `len` 135 and 136. -/
theorem test_witness_PhaseTableOfTheCommands :
    (testState .absorbing []).err = false ∧ (testState .absorbing []).phase = .absorbing ∧ (135#8).toNat ≤ 135 ∧
      135 < (136#8).toNat ∧ (testState .padded []).phase = .padded ∧ (testState .idle []).phase ≠ .absorbing ∧
      (testState .done []).phase ≠ .absorbing ∧ (testState .done []).phase ≠ .padded :=
  ⟨rfl, rfl, by decide, by decide, rfl, by decide, by decide, by decide⟩

/-- The five branches of FirstFaultInOrderIsTaken, each with a word whose later checks would fail as well. -/
theorem test_witness_FirstFaultInOrderIsTaken :
    [0x5FFF#16, 0x31FF#16, 0x30FF#16, 0x3088#16, 0x3087#16].map
        (fun w => (w.toNat / 4096, w.toNat / 256 % 16, w.toNat % 256)) =
      [(5, 15, 255), (3, 1, 255), (3, 0, 255), (3, 0, 136), (3, 0, 135)] ∧
    [0x5FFF#16, 0x31FF#16, 0x30FF#16].map (fun w =>
      answer (step (testState .idle [.command w zeroBlock])) (fun t => (t.err, t.errCode, t.errCmd))) =
      [some (true, 1#3, 0x5FFF#16), some (true, 2#3, 0x31FF#16), some (true, 3#3, 0x30FF#16)] ∧
    [0x3088#16, 0x3087#16].map (fun w =>
      answer (step (testState .absorbing [.command w zeroBlock])) (fun t => (t.err, t.errCode, t.errCmd))) =
      [some (true, 4#3, 0x3088#16), some (false, 0#3, 0x0000#16)] := by
  decide +kernel

/-- Requests of two words and of a read, from a state with a fault. -/
theorem test_witness_FaultIsFinalForEveryCommandSequence (rest : List HostRequest) :
    (faulted ([(0x1000#16, zeroBlock), (0xFFFF#16, zeroBlock)].map (fun c => .command c.1 c.2) ++ rest)).err = true ∧
      (faulted (.readOut :: rest)).requests = .readOut :: rest ∧ HostRequest.readOut.isReset = false :=
  ⟨rfl, rfl, rfl⟩

/-- A consistent state in each of the invariant's cases, and a step from it. -/
theorem test_witness_StepKeepsTheControllerConsistent :
    (testState .done [.command 0x1000#16 zeroBlock]).Consistent ∧ (faulted [.reset]).Consistent ∧
      step (faulted [.command 0x1000#16 zeroBlock]) = .next (faulted []) ∧
      exec .init (faulted []) = .next (faulted []) := by
  refine ⟨?_, ?_, rfl, rfl⟩ <;>
    simp [State.Consistent, testState, faulted, State.takeFault, faultBits]

/-- A state just after INIT, whose history is empty, and the step that absorbs a block from it. -/
theorem test_witness_StepKeepsTheAbsorbedHistory :
    HoldsAbsorbed [] (testState .absorbing [.command 0x2000#16 zeroBlock]) ∧
      (testState .absorbing [.command 0x2000#16 zeroBlock]).Consistent ∧
      step (testState .absorbing [.command 0x2000#16 zeroBlock]) =
        .next (performAbsorb zeroBlock (testState .absorbing [])) := by
  refine ⟨⟨fun _ => rfl, fun h => absurd h (by decide)⟩, ?_, rfl⟩
  simp [State.Consistent, testState]

/-- Two states in IDLE that agree for the host and differ in the lanes and `OUT`; a run of each. -/
theorem test_witness_UnspecifiedResetValuesAreNeverObserved :
    HostAgree (testState .idle [.readStatus])
      { testState .idle [.readStatus] with lanes := lanesOf [5], out := Vector.replicate 32 1#8 } ∧
    (testState .idle [.readStatus]).lanes ≠ lanesOf [5] ∧
    (answer (Sys2Proof.core.run 1 (testState .idle [.readStatus])) fun t => t.reads) = some [.status 0#32] := by
  refine ⟨⟨rfl, rfl, rfl, rfl, rfl, rfl, rfl, rfl, fun h => absurd rfl h, fun h => absurd h (by decide)⟩, ?_, ?_⟩ <;>
    decide +kernel

/-- Each clause of OnlyTheirCommandsWriteEachRegister: a step that changes the lanes, `phase` and `dv`, and one that
changes `OUT`. -/
theorem test_witness_OnlyTheirCommandsWriteEachRegister :
    answer (step ((testState .done [.command 0x1000#16 zeroBlock]).setLanes (lanesOf [1])))
      (fun t => (decide (t.lanes = lanesOf [1]), t.phase, t.dv)) = some (false, .absorbing, false) ∧
    answer (step ((testState .padded [.command 0x4000#16 zeroBlock]).setLanes (lanesOf [1])))
      (fun t => decide (t.out = Vector.replicate 32 0#8)) = some false := by
  decide +kernel

/-- Two states of one engine with different hosts, and an instruction both execute. -/
theorem test_witness_EngineIsAFunctionOfEngineAndInstruction :
    SameEngine (testState .padded []) (testState .padded [.readOut]) ∧
      exec .init (testState .padded []) = .next (performInit (testState .padded [])) ∧
      exec .init (testState .padded [.readOut]) = .next (performInit (testState .padded [.readOut])) :=
  ⟨⟨rfl, rfl, rfl, rfl, rfl, rfl, rfl⟩, rfl, rfl⟩

/-- An instruction that puts nothing in `microResult`, and its next state. -/
theorem test_witness_InstructionsLeaveTheHostSideAlone :
    exec .init (testState .idle []) = .next (performInit (testState .idle [])) ∧
      (∀ n din, Instr.init ≠ .pad n din) ∧ Instr.init ≠ .extract :=
  ⟨rfl, fun _ _ => Instr.noConfusion, by decide⟩

/-- The words of the sequence of one byte (D2), and a host that requests exactly it, from a state without and from one
with a fault. -/
theorem test_witness_HashLeavesTheKeccakDigest :
    (hashCommands zeroBlock [0x61#8]).filterMap (fun i => (encode i).map Prod.fst) =
      [0x1000#16, 0x3001#16, 0x4000#16] ∧
    (testState .done (requestsOf (hashCommands zeroBlock [0x61#8]) ++ [.readOut])).requests =
      requestsOf (hashCommands zeroBlock [0x61#8]) ++ [.readOut] ∧
    (testState .done []).err = false :=
  ⟨by decide +kernel, rfl, rfl⟩
theorem test_witness_HashIsItsCommandSequence :
    (faulted (requestsOf (hashCommands zeroBlock [0x61#8]) ++ [])).requests =
      requestsOf (hashCommands zeroBlock [0x61#8]) ++ [] ∧
    136 * 1 + (0 : Fin 136).val < (List.replicate 137 0#8).length := ⟨rfl, by decide +kernel⟩

theorem test_witness_NullBufferOnlyWithLengthZero : (5 : Nat) ≠ 0 := by decide

/-! ### The permutation's steps (V-series) -/

/-- V1. -/
theorem test_theta_single_bit : answer (exec .theta (withLanes (lanesOf [1]))) (fun t => nonzeroLanes t.lanes) =
    some [(0, 1), (1, 1), (4, 2), (6, 1), (9, 2), (11, 1), (14, 2), (16, 1), (19, 2), (21, 1), (24, 2)] :=
  rfl

/-- V2: the rotation wraps bit 63 to bit 0. `A[2,3]` is lane 17. -/
theorem test_theta_wraps :
    answer (exec .theta (withLanes (lanesOf (List.replicate 17 0 ++ [2 ^ 63])))) (fun t => nonzeroLanes t.lanes) =
      some [(1, 1), (3, 2 ^ 63), (6, 1), (8, 2 ^ 63), (11, 1), (13, 2 ^ 63), (16, 1), (17, 2 ^ 63), (18, 2 ^ 63),
        (21, 1), (23, 2 ^ 63)] :=
  rfl

/-- V3, second input: bits wrap. -/
theorem test_rho_wraps :
    answer (exec .rho (withLanes (lanesOf (List.replicate 25 0x8000000000000001)))) (fun t => t.lanes.toList) =
      some ([0x8000000000000001, 0x0000000000000003, 0x6000000000000000, 0x0000000018000000, 0x000000000C000000] ++
        [0x0000001800000000, 0x0000180000000000, 0x0000000000000060, 0x00C0000000000000, 0x0000000000180000] ++
        [0x000000000000000C, 0x0000000000000600, 0x00000C0000000000, 0x0000000003000000, 0x000000C000000000] ++
        [0x0000030000000000, 0x0000300000000000, 0x000000000000C000, 0x0000000000300000, 0x0000000000000180] ++
        [0x0000000000060000, 0x0000000000000006, 0x3000000000000000, 0x0180000000000000, 0x0000000000006000]) :=
  rfl

/-- V4: the direction of PI. -/
theorem test_pi_direction :
    answer (exec .pi (withLanes (lanesOf (List.range 25)))) (fun t => t.lanes.toList.map BitVec.toNat) =
      some [0, 6, 12, 18, 24, 3, 9, 10, 16, 22, 1, 7, 13, 19, 20, 4, 5, 11, 17, 23, 2, 8, 14, 15, 21] :=
  rfl

/-- V5. -/
theorem test_chi_row :
    answer (exec .chi (withLanes (lanesOf [0x00000000FFFFFFFF, 0x0F0F0F0F0F0F0F0F, 0x00FF00FF00FF00FF,
        0xFFFFFFFFFFFFFFFF, 0]))) (fun t => nonzeroLanes t.lanes) =
      some [(0, 0x00F000F0FF0FFF0F), (1, 0xF00FF00FF00FF00F), (2, 0x00FF00FF00FF00FF), (3, 0xFFFFFFFF00000000),
        (4, 0x0F0F0F0F00000000)] :=
  rfl

/-- V6: the last round constant. -/
theorem test_iota_last : answer (exec (.iota 23) (withLanes zeroLanes)) (fun t => nonzeroLanes t.lanes) =
    some [(0, 0x8000000080008008)] :=
  rfl

/-- V7: round 1 after round 0 from the zero state, which left 1 in lane 0 (V6). -/
theorem test_round_one : answer (exec (.round 1) (withLanes (lanesOf [1]))) (fun t => nonzeroLanes t.lanes) =
    some [(0, 0x0000000000008083), (1, 0x0000100000000000), (2, 0x0000000000008000), (3, 0x0000000000000001),
      (4, 0x0000100000008000), (6, 0x0000200000200000), (8, 0x0000200000000000), (9, 0x0000000000200000),
      (10, 0x0000000000000002), (11, 0x0000000000000200), (13, 0x0000000000000202), (15, 0x0000000010000400),
      (17, 0x0000000000000400), (18, 0x0000000010000000), (20, 0x0000010000000000), (22, 0x0000010000000004),
      (24, 0x0000000000000004)] :=
  rfl

/-! ### Data movements and the padder (X- and Q-series) -/

/-- X1 and X2: byte order, the capacity, and that XORIN is XOR. -/
theorem test_xorin_zero : answer (exec (.xorin (countingBlock 0)) (withLanes zeroLanes))
    (fun t => [t.lanes[0], t.lanes[1], t.lanes[15], t.lanes[16], t.lanes[17], t.lanes[24]]) =
      some [0x0706050403020100, 0x0F0E0D0C0B0A0908, 0x7F7E7D7C7B7A7978, 0x8786858483828180, 0, 0] := by
  decide +kernel
theorem test_xorin_ones :
    answer (exec (.xorin (countingBlock 0)) (withLanes (lanesOf (List.replicate 25 0xFFFFFFFFFFFFFFFF))))
      (fun t => [t.lanes[0], t.lanes[16], t.lanes[17]]) =
      some [0xF8F9FAFBFCFDFEFF, 0x78797A7B7C7D7E7F, 0xFFFFFFFFFFFFFFFF] := by
  decide +kernel

/-- X3, from the first four lanes of V8. -/
theorem test_extract : answer (exec .extract (withLanes (lanesOf [0xF1258F7940E1DDE7, 0x84D5CCF933C0478A,
    0xD598261EA65AA9EE, 0xBD1547306F80494D]))) (fun t => match t.microResult with
      | .bytes d => hexOf d.toList
      | .none => 0
      | .block _ => 0) =
      some 0xe7dde140798f25f18a47c033f9ccd584eea95aa61e2698d54d49806f304715bd := by
  with_unfolding_all rfl

/-- Q2: every byte of the block. -/
theorem test_pad_one : answer (exec (.pad 1 (countingBlock 0xA0)) (withLanes zeroLanes)) (fun t => t.microResult) =
    some (.block (Vector.ofFn fun i : Fin 136 =>
      if i.val = 0 then 0xA0#8 else if i.val = 1 then 0x01#8 else if i.val = 135 then 0x80#8 else 0x00#8)) := by
  decide +kernel

/-- Q5: the two padding bytes fall together. -/
theorem test_pad_last : answer (exec (.pad 135 (countingBlock 0xA0)) (withLanes zeroLanes))
    (fun t => match t.microResult with
      | .block p => [p[0], p[134], p[135]]
      | .none => []
      | .bytes _ => []) = some [0xA0#8, 0x26#8, 0x81#8] := by
  with_unfolding_all rfl

/-! ### Whole permutations: the slow tests, last -/

/-- V8. -/
theorem test_permute_zero : answer (exec .permute (withLanes zeroLanes)) (fun t => t.lanes.toList) =
    some ([0xF1258F7940E1DDE7, 0x84D5CCF933C0478A, 0xD598261EA65AA9EE, 0xBD1547306F80494D, 0x8B284E056253D057] ++
        [0xFF97A42D7F8E6FD4, 0x90FEE5A0A44647C4, 0x8C5BDA0CD6192E76, 0xAD30A6F71B19059C, 0x30935AB7D08FFC64] ++
        [0xEB5AA93F2317D635, 0xA9A6E6260D712103, 0x81A57C16DBCF555F, 0x43B831CD0347C826, 0x01F22F1A11A5569F] ++
        [0x05E5635A21D9AE61, 0x64BEFEF28CC970F2, 0x613670957BC46611, 0xB87C5A554FD00ECB, 0x8C3EE88A1CCF32C8] ++
        [0x940C7922AE3A2614, 0x1841F924A2C509E4, 0x16F53526E70465C2, 0x75F644E97F30A13B, 0xEAF1FF7B5CECA249]) := by
  decide +kernel

/-- P1, step 2: FINAL of the empty message; the block's bytes are ignored. -/
theorem test_final_empty_message :
    answer (exec (.final 0#8 (countingBlock 1)) (testState .absorbing [])) (fun t => (t.phase, shownLanes t.lanes)) =
      some (.padded, [0x3C23F7860146D2C5, 0xC003C7DCB27D7E92, 0x3B2782CA53B600E5, 0x70A4855D04D8FA7B,
        0x1B5D1A6545A611FF, 0xA3FE1AF7779FAFD7]) := by
  decide +kernel

/-- D3: "abc". -/
theorem test_hash_abc :
    answer (exec (.hash (.bytes [0x61#8, 0x62#8, 0x63#8])) (testState .done [])) (fun t => hexOf t.out.toList) =
      some 0x4e03657aea45a94fc7d47ba826c8d667c0d1e6e33a64a036ec44f58fa12d6c45 := by
  decide +kernel

end Sys2Proof.Tests
end

section
/-! PROOF. Bytes to a lane (spec/00_scope.md R9): appending words is weighted addition, and LE64 appends eight bytes. -/

namespace Sys2Proof.Machine

/-- The low word of an append fills bits that the shifted high word leaves zero, so no carry is lost. -/
theorem toNat_append_eq_mul_add {m n : Nat} (x : BitVec m) (y : BitVec n) :
    (x ++ y).toNat = x.toNat * 2 ^ n + y.toNat := by
  rw [BitVec.toNat_append, ← Nat.shiftLeft_add_eq_or_of_lt y.isLt, Nat.shiftLeft_eq]

/-- LE64 as a number in Horner's form, the byte of the highest index innermost. -/
theorem toNat_le64 (b : Fin 8 → Byte) :
    (le64 b).toNat =
      (((((((b 7).toNat * 2 ^ 8 + (b 6).toNat) * 2 ^ 8 + (b 5).toNat) * 2 ^ 8 + (b 4).toNat) * 2 ^ 8
        + (b 3).toNat) * 2 ^ 8 + (b 2).toNat) * 2 ^ 8 + (b 1).toNat) * 2 ^ 8 + (b 0).toNat := by
  simp only [le64, toNat_append_eq_mul_add]

/-- Settles O13: Horner's form of LE64, multiplied out. -/
theorem le64IsTheWeightedSum : Obligations.LE64IsTheWeightedSum := by
  intro b
  rw [toNat_le64, Fin.sum_univ_eight]
  simp only [Fin.coe_ofNat_eq_mod, Nat.reduceMod]
  ring

end Sys2Proof.Machine
end

section
/-! PROOF. The engine's invariants (spec/10_state.md R26): what a step and a decoded command can do, said once, then the
controller's invariant, the history of absorbed blocks, and which commands write each register. -/

namespace Sys2Proof.Machine

/-! ### Words and the STATUS word -/

/-- FINAL's word as a number (spec/30_encoding.md R51). -/
theorem toNat_finalWord (len : BitVec 8) : (finalWord len).toNat = 0x3000 + len.toNat := by
  simp only [finalWord, makeWord, toNat_append_eq_mul_add, BitVec.toNat_ofNat]
  norm_num

/-- Settles O11: each field of STATUS lies in one part of the append. -/
theorem statusWordFields : Obligations.StatusWordFields := by
  intro s
  simp only [statusWord, BitVec.getLsbD_append, BitVec.extractLsb'_append_eq_ite]
  refine ⟨?_, ?_, ?_, ?_, ?_, ?_, ?_⟩ <;> simp

/-! ### Reset -/

/-- Settles O1: the reset values of R25; none of them is a free value. -/
theorem resetClearsController : Obligations.ResetClearsController :=
  ⟨rfl, rfl, rfl, rfl, rfl, rfl⟩

/-- Every reset state meets the controller's invariant. -/
theorem State.resetWith_consistent (n : Nat) (rs : List HostRequest) (ds : List HostRead) :
    (State.resetWith n rs ds).Consistent := by
  simp [State.Consistent, State.resetWith]

/-- In IDLE with no valid `OUT` the history says nothing. -/
theorem holdsAbsorbed_of_idle {s : State} (bs : List Block) (hp : s.phase = .idle) (hd : s.dv = false) :
    HoldsAbsorbed bs s :=
  ⟨fun h => absurd hp h, fun h => absurd (hd.symm.trans h) (by decide)⟩

/-- Settles O38. -/
theorem resetIsConsistent : Obligations.ResetIsConsistent :=
  ⟨State.resetWith_consistent 0 [] [], holdsAbsorbed_of_idle [] rfl rfl⟩

/-! ### What a step can do -/

/-- A read of OUT leaves the engine as it is. -/
theorem sameEngine_answerOut (s : State) : SameEngine s s.answerOut := by
  rcases answerOut_cases s with ⟨_, e⟩ | ⟨_, d, e⟩ <;> rw [e] <;> exact ⟨rfl, rfl, rfl, rfl, rfl, rfl, rfl⟩

/-- What a step does to the engine: nothing (no request, a dropped command or a read), a decoding fault, a decoded
command, or a reset. -/
theorem step_engine_cases {s t : State} (h : step s = .next t) :
    (SameEngine s t ∧ ∀ cmd din rs, s.requests = .command cmd din :: rs → s.err = true) ∨
    (∃ cmd din rs c, s.requests = .command cmd din :: rs ∧ s.err = false ∧ decode cmd din = .error c ∧
      t = (s.setRequests rs).takeFault c cmd) ∨
    (∃ cmd din rs i, s.requests = .command cmd din :: rs ∧ s.err = false ∧ decode cmd din = .ok i ∧
      exec i (s.setRequests rs) = .next t) ∨
    (∃ r rs, s.requests = r :: rs ∧ r.isReset = true ∧ t = (s.setRequests rs).applyReset) := by
  have same : ∀ u, SameEngine (s.setRequests u) (s.setRequests u).answerOut := fun u => sameEngine_answerOut _
  rcases step_cases s with ⟨hr, e⟩ | ⟨r, rs, hr, ⟨cmd, din, rfl, he, e⟩ | ⟨cmd, din, c, rfl, he, hd, e⟩ |
    ⟨cmd, din, i, rfl, he, hd, e⟩ | ⟨rfl, e⟩ | ⟨rfl, e⟩ | ⟨hreset, e⟩⟩ <;> rw [e] at h
  · cases h
    exact .inl ⟨⟨rfl, rfl, rfl, rfl, rfl, rfl, rfl⟩, by simp [hr]⟩
  · cases h
    exact .inl ⟨⟨rfl, rfl, rfl, rfl, rfl, rfl, rfl⟩, fun _ _ _ _ => he⟩
  · cases h
    exact .inr (.inl ⟨cmd, din, rs, c, hr, he, hd, rfl⟩)
  · exact .inr (.inr (.inl ⟨cmd, din, rs, i, hr, he, hd, h⟩))
  · cases h
    exact .inl ⟨⟨rfl, rfl, rfl, rfl, rfl, rfl, rfl⟩, by simp [hr]⟩
  · cases h
    exact .inl ⟨same rs, by simp [hr]⟩
  · cases h
    refine .inr (.inr (.inr ⟨r, rs, hr, ?_, rfl⟩))
    rcases hreset with rfl | ⟨cmd, din, rfl⟩ <;> rfl

/-- What executing a decoded word does: it is one of the four commands, under that command's word. -/
theorem exec_decoded_cases {cmd : CmdWord} {din : Block} {i : Instr} (hd : decode cmd din = .ok i) (s : State) :
    (i = .init ∧ cmd = initWord ∧ exec i s = .next (initCommand s)) ∨
    (i = .absorb din ∧ cmd = absorbWord ∧ exec i s = .next (absorbCommand din s)) ∨
    (i = .final (lenField cmd) din ∧ cmd = finalWord (lenField cmd) ∧
      exec i s = .next (finalCommand (lenField cmd) din s)) ∨
    (i = .squeeze ∧ cmd = squeezeWord ∧ exec i s = .next (squeezeCommand s)) := by
  rcases decode_ok_cases hd with ⟨rfl, hw⟩ | ⟨rfl, hw⟩ | ⟨rfl, hw⟩ | ⟨rfl, hw⟩
  · exact .inl ⟨rfl, hw, rfl⟩
  · exact .inr (.inl ⟨rfl, hw, rfl⟩)
  · exact .inr (.inr (.inl ⟨rfl, hw, rfl⟩))
  · exact .inr (.inr (.inr ⟨rfl, hw, rfl⟩))

/-- Settles O3: a step from `err = 1` keeps the engine, hence `err`, unless it is a reset. -/
theorem onlyResetClearsErr : Obligations.OnlyResetClearsErr := by
  intro s t h hs ht
  rcases step_engine_cases h with ⟨⟨_, _, _, _, he, _, _⟩, _⟩ | ⟨_, _, _, _, _, he, _, _⟩ |
    ⟨_, _, _, _, _, he, _, _⟩ | ⟨r, rs, hr, hreset, _⟩
  · simp [← he, hs] at ht
  · simp [hs] at he
  · simp [hs] at he
  · exact ⟨r, rs, hr, hreset⟩

/-! ### The controller's invariant -/

/-- The invariant is a property of the engine. -/
theorem State.Consistent.of_sameEngine {s t : State} (hs : s.Consistent) (h : SameEngine s t) : t.Consistent := by
  obtain ⟨-, -, hp, hd, he, hc, hw⟩ := h
  unfold State.Consistent
  rw [← hp, ← hd, ← he, ← hc, ← hw]
  exact hs

/-- A fault's code is one of 1 to 4 (spec/60_exceptions.md R140). -/
theorem faultBits_range (c : FaultCode) : faultBits c ≠ 0 ∧ (faultBits c).toNat ≤ 4 := by
  cases c <;> decide

/-- Taking a fault keeps the invariant: it sets `err` with a code that is not 0. -/
theorem State.Consistent.takeFault {s : State} (hs : s.Consistent) (c : FaultCode) (cmd : CmdWord) :
    (s.takeFault c cmd).Consistent := by
  obtain ⟨hdv, -, -, -⟩ := hs
  obtain ⟨hne, hle⟩ := faultBits_range c
  exact ⟨hdv, by simpa using hne, hle, by simp⟩

/-- A command keeps the invariant if what it performs when accepted does. -/
theorem State.Consistent.acceptCommand {s : State} {allowed : List Phase} {perform : State → State}
    (hs : s.Consistent) (lenOk : Bool) (word : CmdWord) (hperf : s.phase ∈ allowed → (perform s).Consistent) :
    (acceptCommand allowed lenOk word perform s).Consistent := by
  rcases acceptCommand_cases allowed lenOk word perform s with ⟨_, e⟩ | ⟨_, _, e⟩ | ⟨_, _, _, e⟩ | ⟨_, hp, _, e⟩ <;>
    rw [e]
  · exact hs
  · exact hs.takeFault _ _
  · exact hs.takeFault _ _
  · exact hperf hp

/-- In ABSORBING no digest is valid. -/
theorem State.Consistent.dv_eq_false {s : State} (hs : s.Consistent) (hp : s.phase = .absorbing) : s.dv = false := by
  obtain ⟨hdv, -, -, -⟩ := hs
  simpa [hp] using hdv

theorem State.Consistent.initCommand {s : State} (hs : s.Consistent) : (initCommand s).Consistent := by
  have ⟨_, herr⟩ := hs
  exact hs.acceptCommand _ _ fun _ => ⟨by simp, herr⟩

theorem State.Consistent.absorbCommand {s : State} (hs : s.Consistent) (din : Block) :
    (absorbCommand din s).Consistent :=
  hs.acceptCommand _ _ fun _ => hs

theorem State.Consistent.finalCommand {s : State} (hs : s.Consistent) (len : BitVec 8) (din : Block) :
    (finalCommand len din s).Consistent := by
  have ⟨_, herr⟩ := hs
  refine hs.acceptCommand _ _ fun hp => ⟨?_, herr⟩
  simp [hs.dv_eq_false (List.mem_singleton.mp hp)]

theorem State.Consistent.squeezeCommand {s : State} (hs : s.Consistent) : (squeezeCommand s).Consistent := by
  have ⟨_, herr⟩ := hs
  exact hs.acceptCommand _ _ fun _ => ⟨by simp, herr⟩

theorem State.Consistent.foldl_absorbCommand {s : State} (hs : s.Consistent) (bs : List Block) :
    (bs.foldl (fun t b => Machine.absorbCommand b t) s).Consistent := by
  induction bs generalizing s with
  | nil => exact hs
  | cons b bs ih => exact ih (hs.absorbCommand b)

/-- The commands of HASH keep the invariant, one after the other (spec/43_oneshot.md R120). -/
theorem State.Consistent.runHash {s : State} (hs : s.Consistent) (fill : Block) (m : List Byte) :
    (runHash fill m s).Consistent :=
  ((hs.initCommand.foldl_absorbCommand _).finalCommand _ _).squeezeCommand

/-- Every instruction keeps the controller's invariant: a micro-operation does not touch the controller. -/
theorem State.Consistent.exec {i : Instr} {s t : State} (hs : s.Consistent) (h : exec i s = .next t) :
    t.Consistent := by
  cases i with
  | init => cases h; exact hs.initCommand
  | absorb din => cases h; exact hs.absorbCommand din
  | final len din => cases h; exact hs.finalCommand len din
  | squeeze => cases h; exact hs.squeezeCommand
  | theta | rho | pi | chi | iota _ | round _ | permute => cases h; exact hs
  | pad _ _ | xorin _ | extract => cases h; exact hs
  | hash arg =>
    match arg with
    | .bytes m => cases h; exact hs.runHash _ m
    | .null 0 => cases h; exact hs.runHash _ []
    | .null (_ + 1) => cases h

/-- Settles O39: a step leaves the engine, takes a fault, executes an instruction or resets. -/
theorem stepKeepsTheControllerConsistent : Obligations.StepKeepsTheControllerConsistent := by
  refine ⟨fun s t hs h => ?_, fun i s t hs h => hs.exec h⟩
  rcases step_engine_cases h with ⟨same, _⟩ | ⟨cmd, _, _, c, _, _, _, rfl⟩ | ⟨_, _, rs, _, _, _, _, hx⟩ |
    ⟨_, _, _, _, rfl⟩
  · exact hs.of_sameEngine same
  · exact State.Consistent.takeFault hs c cmd
  · exact State.Consistent.exec (s := s.setRequests rs) hs hx
  · exact State.resetWith_consistent _ _ _

/-! ### The history of absorbed blocks -/

section History
variable {bs : List Block} {s : State}

/-- The history is a property of the engine. -/
theorem HoldsAbsorbed.of_sameEngine {t : State} (hb : HoldsAbsorbed bs s) (h : SameEngine s t) :
    HoldsAbsorbed bs t := by
  obtain ⟨hl, ho, hp, hd, -, -, -⟩ := h
  unfold HoldsAbsorbed
  rw [← hl, ← ho, ← hp, ← hd]
  exact hb

/-- INIT starts an empty history. -/
theorem holdsAbsorbed_initCommand (he : s.err = false) : HoldsAbsorbed [] (initCommand s) := by
  rw [initCommand_performed he]
  exact ⟨fun _ => rfl, by simp⟩

/-- One more block absorbed from ABSORBING: no digest is valid there, so only the lanes matter. -/
theorem HoldsAbsorbed.append {t : State} {b : Block} (hb : HoldsAbsorbed bs s) (hs : s.Consistent)
    (hp : s.phase = .absorbing) (hl : t.lanes = absorbBlock s.lanes b) (hd : t.dv = s.dv) :
    HoldsAbsorbed (bs ++ [b]) t := by
  obtain ⟨hlanes, -⟩ := hb
  refine ⟨fun _ => ?_, fun h => ?_⟩
  · rw [hl, hlanes (by simp [hp]), absorbAll_append]
  · simp [hd, hs.dv_eq_false hp] at h

/-- ABSORB extends the history by its block when it is performed, and otherwise keeps it. -/
theorem HoldsAbsorbed.absorbCommand (hb : HoldsAbsorbed bs s) (hs : s.Consistent) (he : s.err = false) (din : Block) :
    HoldsAbsorbed (if s.phase = .absorbing then bs ++ [din] else bs) (absorbCommand din s) := by
  rcases absorbCommand_cases din s with ⟨h, _⟩ | ⟨_, hp, e⟩ | ⟨_, hp, e⟩
  · simp [he] at h
  · rw [e, if_neg hp]
    exact hb
  · rw [e, if_pos hp]
    exact hb.append hs hp rfl rfl

/-- FINAL extends the history by its padded block when it is performed, and otherwise keeps it. -/
theorem HoldsAbsorbed.finalCommand (hb : HoldsAbsorbed bs s) (hs : s.Consistent) (he : s.err = false) (len : BitVec 8)
    (din : Block) :
    HoldsAbsorbed (if s.phase = .absorbing ∧ len.toNat ≤ 135 then bs ++ [padBlock din len.toNat] else bs)
      (finalCommand len din s) := by
  rcases finalCommand_cases len din s with ⟨h, _⟩ | ⟨_, hp, e⟩ | ⟨_, _, hlen, e⟩ | ⟨_, hp, hlen, e⟩
  · simp [he] at h
  · rw [e, if_neg fun ⟨h, _⟩ => hp h]
    exact hb
  · rw [e, if_neg fun ⟨_, h⟩ => Nat.not_le.mpr hlen h]
    exact hb
  · rw [e, if_pos ⟨hp, hlen⟩]
    exact hb.append hs hp rfl rfl

/-- SQUEEZE keeps the history, and makes `OUT` the first bytes of the lanes it speaks of. -/
theorem HoldsAbsorbed.squeezeCommand (hb : HoldsAbsorbed bs s) : HoldsAbsorbed bs (squeezeCommand s) := by
  rcases squeezeCommand_cases s with ⟨_, e⟩ | ⟨_, _, e⟩ | ⟨_, hp, e⟩ <;> rw [e]
  · exact hb
  · exact hb
  · obtain ⟨hlanes, -⟩ := hb
    have hl : s.lanes = absorbAll bs := hlanes (by simp [hp])
    exact ⟨fun _ => hl, fun _ => congrArg extract hl⟩

/-- A step that accepts no command adds nothing to the history. -/
theorem absorbedAfter_of_no_command (h : ∀ cmd din rs, s.requests = .command cmd din :: rs → s.err = true) :
    absorbedAfter bs s = bs := by
  unfold absorbedAfter
  split
  · rw [if_pos (h _ _ _ ‹_›)]
  · rfl

/-- Nor does a word that does not decode. -/
theorem absorbedAfter_of_decode_error {cmd : CmdWord} {din : Block} {rs : List HostRequest} {c : FaultCode}
    (hr : s.requests = .command cmd din :: rs) (hd : decode cmd din = .error c) : absorbedAfter bs s = bs := by
  simp only [absorbedAfter, hr, hd, ite_self]

/-- A command executed with its request taken off keeps the history, with what it adds. -/
theorem HoldsAbsorbed.exec_decoded {t : State} {cmd : CmdWord} {din : Block} {rs : List HostRequest} {i : Instr}
    (hb : HoldsAbsorbed bs s) (hs : s.Consistent) (hr : s.requests = .command cmd din :: rs) (he : s.err = false)
    (hd : decode cmd din = .ok i) (h : exec i (s.setRequests rs) = .next t) : HoldsAbsorbed (absorbedAfter bs s) t := by
  have hb' : HoldsAbsorbed bs (s.setRequests rs) := hb
  have hs' : (s.setRequests rs).Consistent := hs
  rcases exec_decoded_cases hd (s.setRequests rs) with ⟨rfl, _, e⟩ | ⟨rfl, _, e⟩ | ⟨rfl, _, e⟩ | ⟨rfl, _, e⟩ <;>
    cases e.symm.trans h <;>
    simp only [absorbedAfter, hr, he, hd, Bool.false_eq_true, ↓reduceIte]
  · exact holdsAbsorbed_initCommand he
  · exact hb'.absorbCommand hs' he din
  · exact hb'.finalCommand hs' he _ din
  · exact hb'.squeezeCommand

end History

/-- Settles O40. -/
theorem stepKeepsTheAbsorbedHistory : Obligations.StepKeepsTheAbsorbedHistory := by
  intro bs s t hs hb h
  rcases step_engine_cases h with ⟨same, hno⟩ | ⟨_, _, _, _, hr, _, hd, rfl⟩ | ⟨_, _, _, _, hr, he, hd, hx⟩ |
    ⟨_, _, _, _, rfl⟩
  · rw [absorbedAfter_of_no_command hno]
    exact hb.of_sameEngine same
  · rw [absorbedAfter_of_decode_error hr hd]
    exact hb
  · exact hb.exec_decoded hs hr he hd hx
  · exact holdsAbsorbed_of_idle _ rfl rfl

/-! ### Which commands write each register -/

/-- Nothing that the four write rules speak of differs (spec/10_state.md R13, R14, R15, R19). -/
def SameSponge (s t : State) : Prop :=
  t.lanes = s.lanes ∧ t.out = s.out ∧ t.phase = s.phase ∧ t.dv = s.dv

/-- What an executed command does to the lanes, `OUT`, `phase` and `dv`: nothing, or what it performs when accepted. -/
theorem exec_decoded_sponge_cases {cmd : CmdWord} {din : Block} {i : Instr} {s t : State}
    (hd : decode cmd din = .ok i) (h : exec i s = .next t) :
    SameSponge s t ∨
    (cmd = initWord ∧ t = performInit s) ∨
    (s.phase = .absorbing ∧ cmd = absorbWord ∧ t = performAbsorb din s) ∨
    (s.phase = .absorbing ∧ (∃ len, len.toNat ≤ 135 ∧ cmd = finalWord len ∧ t = performFinal len din s)) ∨
    (s.phase = .padded ∧ cmd = squeezeWord ∧ t = performSqueeze s) := by
  have keep : SameSponge s s := ⟨rfl, rfl, rfl, rfl⟩
  rcases exec_decoded_cases hd s with ⟨_, hw, e⟩ | ⟨_, hw, e⟩ | ⟨_, hw, e⟩ | ⟨_, hw, e⟩ <;> cases e.symm.trans h
  · rcases initCommand_cases s with ⟨_, e⟩ | ⟨_, e⟩ <;> rw [e]
    · exact .inl keep
    · exact .inr (.inl ⟨hw, rfl⟩)
  · rcases absorbCommand_cases din s with ⟨_, e⟩ | ⟨_, _, e⟩ | ⟨_, hp, e⟩ <;> rw [e]
    · exact .inl keep
    · exact .inl keep
    · exact .inr (.inr (.inl ⟨hp, hw, rfl⟩))
  · rcases finalCommand_cases (lenField cmd) din s with ⟨_, e⟩ | ⟨_, _, e⟩ | ⟨_, _, _, e⟩ | ⟨_, hp, hl, e⟩ <;> rw [e]
    · exact .inl keep
    · exact .inl keep
    · exact .inl keep
    · exact .inr (.inr (.inr (.inl ⟨hp, _, hl, hw, rfl⟩)))
  · rcases squeezeCommand_cases s with ⟨_, e⟩ | ⟨_, _, e⟩ | ⟨_, hp, e⟩ <;> rw [e]
    · exact .inl keep
    · exact .inl keep
    · exact .inr (.inr (.inr (.inr ⟨hp, hw, rfl⟩)))

/-- What a step that serves a command does to the lanes, `OUT`, `phase` and `dv`. -/
theorem step_command_sponge_cases {s t : State} {cmd : CmdWord} {din : Block} {rs : List HostRequest}
    (h : step s = .next t) (hr : s.requests = .command cmd din :: rs) :
    SameSponge s t ∨ s.err = false ∧
      ((cmd = initWord ∧ t = performInit (s.setRequests rs)) ∨
       (s.phase = .absorbing ∧ cmd = absorbWord ∧ t = performAbsorb din (s.setRequests rs)) ∨
       (s.phase = .absorbing ∧
         (∃ len, len.toNat ≤ 135 ∧ cmd = finalWord len ∧ t = performFinal len din (s.setRequests rs))) ∨
       (s.phase = .padded ∧ cmd = squeezeWord ∧ t = performSqueeze (s.setRequests rs))) := by
  rcases step_engine_cases h with ⟨⟨hl, ho, hp, hd, _⟩, _⟩ | ⟨_, _, _, _, _, _, _, rfl⟩ |
    ⟨_, _, _, i, hr', he, hd, hx⟩ | ⟨_, _, hr', hreset, _⟩
  · exact .inl ⟨hl.symm, ho.symm, hp.symm, hd.symm⟩
  · exact .inl ⟨rfl, rfl, rfl, rfl⟩
  · cases hr.symm.trans hr'
    exact (exec_decoded_sponge_cases hd hx).imp_right fun hperf => ⟨he, hperf⟩
  · cases hr.symm.trans hr'
    cases hreset

/-- Settles O42: a register that changed was written by the command performed. -/
theorem onlyTheirCommandsWriteEachRegister : Obligations.OnlyTheirCommandsWriteEachRegister := by
  intro s t cmd din rs h hr
  rcases step_command_sponge_cases h hr with ⟨hl, ho, hp, hd⟩ | ⟨he, hperf⟩
  · exact ⟨absurd hl, absurd ho, absurd hp, absurd hd⟩
  rcases hperf with ⟨hw, rfl⟩ | ⟨hph, hw, rfl⟩ | ⟨hph, len, hlen, hw, rfl⟩ | ⟨hph, hw, rfl⟩
  · exact ⟨fun _ => ⟨he, .inl hw⟩, absurd rfl, fun _ => ⟨he, .inl hw⟩, fun _ => ⟨he, .inl hw⟩⟩
  · exact ⟨fun _ => ⟨he, .inr ⟨hph, .inl hw⟩⟩, absurd rfl, absurd rfl, absurd rfl⟩
  · have hn : 0x3000 ≤ cmd.toNat ∧ cmd.toNat ≤ 0x3087 := by
      rw [hw, toNat_finalWord]
      omega
    exact ⟨fun _ => ⟨he, .inr ⟨hph, .inr hn⟩⟩, absurd rfl, fun _ => ⟨he, .inr (.inl ⟨hph, hn⟩)⟩, absurd rfl⟩
  · exact ⟨absurd rfl, fun _ => ⟨he, hph, hw⟩, fun _ => ⟨he, .inr (.inr ⟨hph, hw⟩)⟩,
      fun _ => ⟨he, .inr ⟨hph, hw⟩⟩⟩

end Sys2Proof.Machine
end

section
/-! PROOF. The host cannot observe the unspecified reset values (spec/10_state.md R25): two states that agree for the host
are served alike, request by request, so their runs answer alike. -/

namespace Sys2Proof.Machine

/-- A run of one step more. -/
theorem core_run_succ {s t : State} (k : Nat) (h : step s = .next t) :
    Sys2Proof.core.run (k + 1) s = Sys2Proof.core.run k t := by
  have h' : Sys2Proof.core.step s = .next t := h
  simp only [Host.Core.run, h']

/-- A command arrives while `err = 1`: dropped. -/
theorem receive_dropped {s : State} (cmd : CmdWord) (din : Block) (he : s.err = true) :
    receive cmd din s = .settled s := by
  simp only [receive, he, ↓reduceIte]

/-- A word arrives that does not decode: its fault. -/
theorem receive_of_decode_error {s : State} {cmd : CmdWord} {din : Block} {c : FaultCode} (he : s.err = false)
    (hd : decode cmd din = .error c) : receive cmd din s = .settled (s.takeFault c cmd) := by
  simp only [receive, he, hd, Bool.false_eq_true, ↓reduceIte]

/-- A word arrives that decodes: its instruction is to be executed. -/
theorem receive_of_decode_ok {s : State} {cmd : CmdWord} {din : Block} {i : Instr} (he : s.err = false)
    (hd : decode cmd din = .ok i) : receive cmd din s = .run i s := by
  simp only [receive, he, hd, Bool.false_eq_true, ↓reduceIte]

section Agree
variable {s t : State}

theorem HostAgree.statusWord_eq (h : HostAgree s t) : statusWord s = statusWord t := by
  obtain ⟨hp, hdv, he, hc, hw, -⟩ := h
  simp only [statusWord, hp, hdv, he, hc, hw]

theorem HostAgree.setRequests (h : HostAgree s t) (rs : List HostRequest) :
    HostAgree (s.setRequests rs) (t.setRequests rs) := by
  obtain ⟨hp, hdv, he, hc, hw, -, hreads, hf, hl, ho⟩ := h
  exact ⟨hp, hdv, he, hc, hw, rfl, hreads, hf, hl, ho⟩

theorem HostAgree.addRead (h : HostAgree s t) (r : HostRead) : HostAgree (s.addRead r) (t.addRead r) := by
  obtain ⟨hp, hdv, he, hc, hw, hr, hreads, hf, hl, ho⟩ := h
  exact ⟨hp, hdv, he, hc, hw, hr, congrArg (· ++ [r]) hreads, hf, hl, ho⟩

theorem HostAgree.drawFree (h : HostAgree s t) : HostAgree s.drawFree t.drawFree := by
  obtain ⟨hp, hdv, he, hc, hw, hr, hreads, hf, hl, ho⟩ := h
  exact ⟨hp, hdv, he, hc, hw, hr, hreads, congrArg (· + 1) hf, hl, ho⟩

theorem HostAgree.takeFault (h : HostAgree s t) (c : FaultCode) (cmd : CmdWord) :
    HostAgree (s.takeFault c cmd) (t.takeFault c cmd) := by
  obtain ⟨hp, hdv, -, -, -, hr, hreads, hf, hl, ho⟩ := h
  exact ⟨hp, hdv, rfl, rfl, rfl, hr, hreads, hf, hl, ho⟩

/-- The lanes and `OUT` of the reset draw the same free value in both. -/
theorem HostAgree.applyReset (h : HostAgree s t) : HostAgree s.applyReset t.applyReset := by
  obtain ⟨-, -, -, -, -, hr, hreads, hf, -, -⟩ := h
  exact ⟨rfl, rfl, rfl, rfl, rfl, hr, hreads, congrArg (· + 1) hf, fun _ => congrArg Config.resetLanes hf,
    fun _ => congrArg Config.resetOut hf⟩

theorem HostAgree.answerStatus (h : HostAgree s t) : HostAgree s.answerStatus t.answerStatus := by
  unfold State.answerStatus
  rw [h.statusWord_eq]
  exact h.addRead _

/-- OUT is the same where it is valid, and where it is not both reads draw the same free value (log 6). -/
theorem HostAgree.answerOut (h : HostAgree s t) : HostAgree s.answerOut t.answerOut := by
  have ⟨_, hdv, _, _, _, _, _, hf, _, ho⟩ := h
  unfold State.answerOut
  rw [← hdv]
  split
  · rw [ho ‹_›]
    exact h.addRead _
  · rw [hf]
    exact (h.addRead _).drawFree

/-- A command keeps the agreement if what it performs when accepted does: both states take the same branch. -/
theorem HostAgree.acceptCommand {allowed : List Phase} {perform : State → State} (h : HostAgree s t) (lenOk : Bool)
    (word : CmdWord) (hperf : s.phase ∈ allowed → HostAgree (perform s) (perform t)) :
    HostAgree (acceptCommand allowed lenOk word perform s) (acceptCommand allowed lenOk word perform t) := by
  have ⟨hphase, _, herr, _⟩ := h
  rcases acceptCommand_cases allowed lenOk word perform s with
    ⟨he, e⟩ | ⟨he, hp, e⟩ | ⟨he, hp, hl, e⟩ | ⟨he, hp, hl, e⟩ <;> rw [e]
  · rw [acceptCommand_dropped (herr ▸ he)]
    exact h
  · rw [acceptCommand_phase (herr ▸ he) (hphase ▸ hp)]
    exact h.takeFault _ _
  · rw [acceptCommand_len (herr ▸ he) (hphase ▸ hp) hl]
    exact h.takeFault _ _
  · rw [acceptCommand_performed (herr ▸ he) (hphase ▸ hp) hl]
    exact hperf hp

theorem HostAgree.initCommand (h : HostAgree s t) : HostAgree (initCommand s) (initCommand t) := by
  refine h.acceptCommand _ _ fun _ => ?_
  obtain ⟨-, -, he, hc, hw, hr, hreads, hf, -, -⟩ := h
  exact ⟨rfl, rfl, he, hc, hw, hr, hreads, hf, fun _ => rfl, by simp⟩

/-- Out of IDLE the lanes are equal, so absorbing one block into them keeps the agreement. -/
theorem HostAgree.absorbCommand (h : HostAgree s t) (din : Block) :
    HostAgree (absorbCommand din s) (absorbCommand din t) := by
  refine h.acceptCommand _ _ fun _ => ?_
  obtain ⟨hp, hdv, he, hc, hw, hr, hreads, hf, hl, ho⟩ := h
  exact ⟨hp, hdv, he, hc, hw, hr, hreads, hf, fun hi => congrArg (absorbBlock · din) (hl hi), ho⟩

theorem HostAgree.finalCommand (h : HostAgree s t) (len : BitVec 8) (din : Block) :
    HostAgree (finalCommand len din s) (finalCommand len din t) := by
  refine h.acceptCommand _ _ fun hmem => ?_
  have hidle : s.phase ≠ .idle := by simp [List.mem_singleton.mp hmem]
  obtain ⟨-, hdv, he, hc, hw, hr, hreads, hf, hl, ho⟩ := h
  exact ⟨rfl, hdv, he, hc, hw, hr, hreads, hf, fun _ => congrArg (absorbBlock · _) (hl hidle), ho⟩

/-- SQUEEZE is performed out of IDLE only, so `OUT` becomes the same in both. -/
theorem HostAgree.squeezeCommand (h : HostAgree s t) : HostAgree (squeezeCommand s) (squeezeCommand t) := by
  refine h.acceptCommand _ _ fun hmem => ?_
  have hidle : s.phase ≠ .idle := by simp [List.mem_singleton.mp hmem]
  obtain ⟨-, -, he, hc, hw, hr, hreads, hf, hl, -⟩ := h
  exact ⟨rfl, rfl, he, hc, hw, hr, hreads, hf, fun _ => hl hidle, fun _ => congrArg extract (hl hidle)⟩

theorem HostAgree.exec_decoded {cmd : CmdWord} {din : Block} {i : Instr} (h : HostAgree s t)
    (hd : decode cmd din = .ok i) :
    ∃ s' t', exec i s = .next s' ∧ exec i t = .next t' ∧ HostAgree s' t' := by
  rcases decode_ok_cases hd with ⟨rfl, _⟩ | ⟨rfl, _⟩ | ⟨rfl, _⟩ | ⟨rfl, _⟩
  · exact ⟨_, _, rfl, rfl, h.initCommand⟩
  · exact ⟨_, _, rfl, rfl, h.absorbCommand din⟩
  · exact ⟨_, _, rfl, rfl, h.finalCommand _ din⟩
  · exact ⟨_, _, rfl, rfl, h.squeezeCommand⟩

/-- One request is served alike: settled in states that agree, or the same decoded command is to be executed. -/
theorem HostAgree.serve (h : HostAgree s t) (r : HostRequest) :
    (∃ s' t', serve r s = .settled s' ∧ serve r t = .settled t' ∧ HostAgree s' t') ∨
    (∃ cmd din i, decode cmd din = .ok i ∧ serve r s = .run i s ∧ serve r t = .run i t) := by
  cases r with
  | command cmd din =>
    have ⟨_, _, herr, _⟩ := h
    cases he : s.err with
    | true => exact .inl ⟨_, _, receive_dropped cmd din he, receive_dropped cmd din (herr ▸ he), h⟩
    | false =>
      cases hd : decode cmd din with
      | error c =>
        exact .inl ⟨_, _, receive_of_decode_error he hd, receive_of_decode_error (herr ▸ he) hd, h.takeFault c cmd⟩
      | ok i => exact .inr ⟨cmd, din, i, hd, receive_of_decode_ok he hd, receive_of_decode_ok (herr ▸ he) hd⟩
  | readStatus => exact .inl ⟨_, _, rfl, rfl, h.answerStatus⟩
  | readOut => exact .inl ⟨_, _, rfl, rfl, h.answerOut⟩
  | reset => exact .inl ⟨_, _, rfl, rfl, h.applyReset⟩
  | resetDuring cmd din => exact .inl ⟨_, _, rfl, rfl, h.applyReset⟩

/-- Steps from states that agree lead to states that agree. -/
theorem HostAgree.step (h : HostAgree s t) :
    ∃ s' t', step s = .next s' ∧ step t = .next t' ∧ HostAgree s' t' := by
  have ⟨_, _, _, _, _, hreq, _⟩ := h
  cases hr : s.requests with
  | nil => exact ⟨_, _, step_of_settled (fetch_idle hr), step_of_settled (fetch_idle (hreq ▸ hr)), h⟩
  | cons r rs =>
    have hs := fetch_request hr
    have ht := fetch_request (hreq ▸ hr : t.requests = r :: rs)
    have hrs := h.setRequests rs
    rcases hrs.serve r with ⟨s', t', es, et, h'⟩ | ⟨cmd, din, i, hd, es, et⟩
    · exact ⟨s', t', step_of_settled (hs.trans es), step_of_settled (ht.trans et), h'⟩
    · rw [step_of_run (hs.trans es), step_of_run (ht.trans et)]
      exact hrs.exec_decoded hd

end Agree

/-- Runs of one length from states that agree end in states that agree. -/
theorem HostAgree.run {k : Nat} {s t s' t' : State} (h : HostAgree s t) (hs : Sys2Proof.core.run k s = .next s')
    (ht : Sys2Proof.core.run k t = .next t') : HostAgree s' t' := by
  induction k generalizing s t with
  | zero => cases hs; cases ht; exact h
  | succ k ih =>
    obtain ⟨s₁, t₁, es, et, h₁⟩ := h.step
    exact ih h₁ ((core_run_succ k es).symm.trans hs) ((core_run_succ k et).symm.trans ht)

/-- Settles O41: in IDLE with `dv = 0` the agreement asks nothing of the lanes and `OUT`, and runs keep it. -/
theorem unspecifiedResetValuesAreNeverObserved : Obligations.UnspecifiedResetValuesAreNeverObserved := by
  refine ⟨fun A B d e rs => ?_, fun k s t s' t' h hs ht => ?_⟩
  · exact ⟨rfl, rfl, rfl, rfl, rfl, rfl, rfl, rfl, fun h => absurd rfl h, fun h => nomatch h⟩
  · have h' := h.run hs ht
    have ⟨_, _, _, _, _, _, hreads, _⟩ := h'
    exact ⟨h', hreads⟩

end Sys2Proof.Machine
end

section
/-! PROOF. The byte views and the data movements (spec/20_memory.md): the flat buffer and the lanes are one storage, so
XORIN and EXTRACT are settled byte by byte; the wide-value layouts; and the host's reads. -/

namespace Sys2Proof.Machine

/-! ### The flat buffer -/

/-- A byte of the flat buffer, by its lane and its place in the lane. -/
theorem sbByte_of_lane (A : Lanes) (j : Fin 25) (k : Fin 8) (h : 8 * j.val + k.val < 200) :
    sbByte A ⟨8 * j.val + k.val, h⟩ = A[j].extractLsb' (8 * k.val) 8 := by
  have hlane : (8 * j.val + k.val) / 8 = j.val := by omega
  have hplace : (8 * j.val + k.val) % 8 = k.val := by omega
  simp only [sbByte, hlane, hplace, Fin.getElem_fin]

/-- Eight bytes of a lane are all of it. -/
theorem lane_ext_bytes {x y : Lane} (h : ∀ k : Fin 8, x.extractLsb' (8 * k.val) 8 = y.extractLsb' (8 * k.val) 8) :
    x = y := by
  apply BitVec.eq_of_getLsbD_eq
  intro p hp
  have hbit := congrArg (·.getLsbD (p % 8)) (h ⟨p / 8, by omega⟩)
  simpa [Nat.mod_lt, Nat.div_add_mod] using hbit

/-- Settles O12: a byte is eight bits cut out of its lane, and `8 * (p / 8) + p % 8 = p`. -/
theorem flatBufferIsTheLanes : Obligations.FlatBufferIsTheLanes := by
  intro A
  refine ⟨fun i b => ?_, fun j p => ?_, fun j => lane_ext_bytes fun k => ?_⟩
  · simp [sbByte]
  · rw [sbByte_of_lane A j ⟨p.val / 8, by omega⟩]
    simp [Nat.mod_lt, Nat.div_add_mod]
  · rw [le64_byte, sbByte_of_lane]

/-! ### Wide values -/

/-- Each byte of a wide value takes eight bits, below those of the bytes after it. -/
theorem testBit_wideOfBytes (bs : List Byte) (i b : Nat) (hi : i < bs.length) (hb : b < 8) :
    (wideOfBytes bs).testBit (8 * i + b) = bs[i].getLsbD b := by
  induction bs generalizing i with
  | nil => simp at hi
  | cons c cs ih =>
    have hcons : wideOfBytes (c :: cs) = 2 ^ 8 * wideOfBytes cs + c.toNat := Nat.add_comm _ _
    rw [hcons, Nat.testBit_two_pow_mul_add _ c.isLt]
    cases i with
    | zero => simp [hb, BitVec.testBit_toNat]
    | succ i =>
      have hlt : i < cs.length := by simpa using hi
      have hbelow : ¬ 8 * (i + 1) + b < 8 := by omega
      have hrest : 8 * (i + 1) + b - 8 = 8 * i + b := by omega
      simp only [hbelow, ↓reduceIte, hrest, ih i hlt, List.getElem_cons_succ]

/-- Settles O14: DIN's layout is its definition, and OUT's holds bit by bit. -/
theorem wideValueLayouts : Obligations.WideValueLayouts := by
  refine ⟨fun din i => by simp [blockOfWide], fun d i => ?_⟩
  apply BitVec.eq_of_getLsbD_eq
  intro b hb
  have hbit := testBit_wideOfBytes d.toList i.val b (by simp) hb
  have hlt : 8 * i.val + b < 256 := by omega
  simp only [wideOfDigest, BitVec.getLsbD_extractLsb', BitVec.getLsbD_ofNat, hb, hlt, hbit, decide_true, Bool.true_and,
    Vector.getElem_toList, Fin.getElem_fin]

/-! ### XORIN and EXTRACT -/

/-- A byte of a lane of the block. -/
theorem blockLane_byte (p : Block) (j : Fin 17) (k : Fin 8) :
    (blockLane p j).extractLsb' (8 * k.val) 8 = p[8 * j.val + k.val] :=
  le64_byte _ k

/-- XORIN on bytes: lanes 0 to 16 are bytes 0 to 135. -/
theorem xoredInto_xorin (A : Lanes) (p : Block) : XoredInto A (xorin A p) fun i => p[i] := by
  intro i
  by_cases hi : i.val < 136
  · have hlane : i.val / 8 < 17 := by omega
    have hbyte := blockLane_byte p ⟨i.val / 8, hlane⟩ ⟨i.val % 8, by omega⟩
    simp only [Nat.div_add_mod] at hbyte
    simp [sbByte, hi, hlane, BitVec.extractLsb'_xor, hbyte]
  · have hlane : ¬ i.val / 8 < 17 := by omega
    simp [sbByte, hi, hlane]

/-- Settles O25: the bytes by `xoredInto_xorin`, the lanes by XORIN's definition. -/
theorem xorinXorsTheRateRegion : Obligations.XorinXorsTheRateRegion :=
  fun p s => ⟨xorin s.lanes p, rfl, xoredInto_xorin s.lanes p, fun j => getElem_xorin s.lanes p j.val j.isLt⟩

/-- Settles O26: EXTRACT's bytes are the first of the flat buffer. -/
theorem extractReadsTheOutputRegion : Obligations.ExtractReadsTheOutputRegion :=
  fun s => ⟨extract s.lanes, rfl, fun i => getElem_extract s.lanes i.val i.isLt⟩

/-! ### The host's reads -/

/-- A step that reads STATUS. -/
theorem step_readStatus {s : State} {rs : List HostRequest} (h : s.requests = .readStatus :: rs) :
    step s = .next (s.setRequests rs).answerStatus :=
  step_of_settled (fetch_request h)

/-- A step that reads OUT. -/
theorem step_readOut {s : State} {rs : List HostRequest} (h : s.requests = .readOut :: rs) :
    step s = .next (s.setRequests rs).answerOut :=
  step_of_settled (fetch_request h)

/-- Settles O10: either read is one answer more; OUT's is `OUT` while `dv = 1` and a free value otherwise. -/
theorem readsHaveNoSideEffect : Obligations.ReadsHaveNoSideEffect := by
  refine fun s rs => ⟨fun h => step_readStatus h, fun h => ?_⟩
  have hsame : SameEngine s (s.setRequests rs).answerOut := sameEngine_answerOut (s.setRequests rs)
  rw [step_readOut h]
  rcases answerOut_cases (s.setRequests rs) with ⟨_, e⟩ | ⟨hdv, d, e⟩ <;> rw [e] at hsame ⊢
  · exact ⟨_, s.out, rfl, hsame, rfl, rfl, rfl, fun _ => rfl⟩
  · exact ⟨_, d, rfl, hsame, rfl, rfl, rfl, fun h1 => absurd (hdv.symm.trans h1) (by decide)⟩

end Sys2Proof.Machine
end

section
/-! PROOF. The encoding (spec/30_encoding.md): each command's word decodes to that command, what decodes is such a word,
and which fields make each decoding fault; then the statements, on the words as numbers. -/

namespace Sys2Proof.Machine

/-! ### The commands' words decode -/

/-- The block on DIN is ignored (R53). -/
theorem decode_initWord (din : Block) : decode initWord din = .ok .init := rfl

theorem decode_absorbWord (din : Block) : decode absorbWord din = .ok (.absorb din) := rfl

/-- Decode keeps every length; its range is checked at execution (R55). -/
theorem decode_finalWord (len : BitVec 8) (din : Block) : decode (finalWord len) din = .ok (.final len din) := by
  simp [decode, finalWord]

/-- The block on DIN is ignored (R53). -/
theorem decode_squeezeWord (din : Block) : decode squeezeWord din = .ok .squeeze := rfl

/-! ### Decode and encode agree -/

/-- Exactly the host's commands have a word (R51, R57, R58). -/
theorem isSome_encode (i : Instr) : (encode i).isSome = i.isCommand := by
  cases i <;> rfl

/-- The word and block of a command decode to it, its operands kept. -/
theorem decode_of_encode {i : Instr} {w : CmdWord} {din : Block} (he : encode i = some (w, din)) :
    decode w din = .ok i := by
  cases i with
  | init => cases he; exact decode_initWord _
  | absorb din => cases he; exact decode_absorbWord din
  | final len din => cases he; exact decode_finalWord len din
  | squeeze => cases he; exact decode_squeezeWord _
  | _ => cases he

/-- A word that decodes is the word of the command it decodes to. -/
theorem encode_of_decode {w : CmdWord} {din : Block} {i : Instr} (hd : decode w din = .ok i) :
    ∃ d, encode i = some (w, d) := by
  rcases decode_ok_cases hd with ⟨rfl, hw⟩ | ⟨rfl, hw⟩ | ⟨hi, hw⟩ | ⟨rfl, hw⟩
  · exact ⟨zeroBlock, by rw [hw]; rfl⟩
  · exact ⟨din, by rw [hw]; rfl⟩
  · exact ⟨din, by rw [hi, encode, ← hw]⟩
  · exact ⟨zeroBlock, by rw [hw]; rfl⟩

/-- Settles O7: `decode_of_encode` and `encode_of_decode`, for what `isSome_encode` says has a word. -/
theorem decodeEncodeRoundTrip : Obligations.DecodeEncodeRoundTrip := by
  refine ⟨fun i hi => ?_, fun w din i hd => ⟨decode_ok_isCommand hd, encode_of_decode hd⟩, fun i hi => ?_⟩
  · obtain ⟨⟨w, din⟩, he⟩ := Option.isSome_iff_exists.mp ((isSome_encode i).trans hi)
    exact ⟨w, din, he, decode_of_encode he⟩
  · exact Option.not_isSome_iff_eq_none.mp (by rw [isSome_encode, hi]; decide)

/-- A command that some word decodes to is decoded from that word alone. -/
theorem decode_eq_ok_iff {i : Instr} {cmd w : CmdWord} {din : Block} (hw : decode w din = .ok i) :
    decode cmd din = .ok i ↔ cmd = w := by
  refine ⟨fun h => ?_, fun h => h ▸ hw⟩
  obtain ⟨d, hd⟩ := encode_of_decode hw
  obtain ⟨d', hd'⟩ := encode_of_decode h
  cases hd.symm.trans hd'
  rfl

/-! ### The decoding faults -/

/-- The must-be-zero length check fails only with RSVD. -/
theorem decodeNoLen_error {len : BitVec 8} {i : Instr} {c : FaultCode} (h : decodeNoLen len i = .error c) :
    len ≠ 0#8 ∧ c = .rsvd := by
  unfold decodeNoLen at h
  split at h
  · cases h
  · exact ⟨‹_›, by cases h; rfl⟩

/-- All a failed decode can be: ILLOP by the opcode, or RSVD by the reserved field or by a length outside FINAL. -/
theorem decode_error_cases {cmd : CmdWord} {din : Block} {c : FaultCode} (h : decode cmd din = .error c) :
    (c = .illop ∧ opField cmd ∉ [1#4, 2#4, 3#4, 4#4]) ∨
    (c = .rsvd ∧ opField cmd ∈ [1#4, 2#4, 3#4, 4#4] ∧
      (rsvField cmd ≠ 0#4 ∨ (opField cmd ≠ 3#4 ∧ lenField cmd ≠ 0#8))) := by
  by_cases hop : opField cmd ∈ [1#4, 2#4, 3#4, 4#4]
  case neg =>
    rw [decode, if_pos hop] at h
    cases h
    exact .inl ⟨rfl, hop⟩
  case pos =>
    refine .inr ?_
    by_cases hrsv : rsvField cmd = 0#4
    case neg =>
      rw [decode, if_neg (not_not.mpr hop), if_pos hrsv] at h
      cases h
      exact ⟨rfl, hop, .inl hrsv⟩
    case pos =>
      obtain ⟨hfinal, hlen, hc⟩ : opField cmd ≠ 3#4 ∧ lenField cmd ≠ 0#8 ∧ c = .rsvd := by
        rw [decode, if_neg (not_not.mpr hop), if_neg (not_not.mpr hrsv)] at h
        split at h
        case isTrue h1 => exact ⟨by rw [h1]; decide, decodeNoLen_error h⟩
        case isFalse =>
          split at h
          case isTrue h2 => exact ⟨by rw [h2]; decide, decodeNoLen_error h⟩
          case isFalse =>
            split at h
            case isTrue => cases h
            case isFalse h3 => exact ⟨h3, decodeNoLen_error h⟩
      exact ⟨hc, hop, .inr ⟨hfinal, hlen⟩⟩

/-- ILLOP exactly for an opcode that selects no command (R55). -/
theorem decode_eq_illop_iff {cmd : CmdWord} {din : Block} :
    decode cmd din = .error .illop ↔ opField cmd ∉ [1#4, 2#4, 3#4, 4#4] := by
  refine ⟨fun h => ?_, fun hop => if_pos hop⟩
  rcases decode_error_cases h with ⟨_, hop⟩ | ⟨hc, _⟩
  · exact hop
  · cases hc

/-- RSVD exactly for a legal opcode with a nonzero reserved field, or a nonzero length outside FINAL (R55). -/
theorem decode_eq_rsvd_iff {cmd : CmdWord} {din : Block} :
    decode cmd din = .error .rsvd ↔ opField cmd ∈ [1#4, 2#4, 3#4, 4#4] ∧
      (rsvField cmd ≠ 0#4 ∨ (opField cmd ≠ 3#4 ∧ lenField cmd ≠ 0#8)) := by
  constructor
  · intro h
    rcases decode_error_cases h with ⟨hc, _⟩ | ⟨_, hfields⟩
    · cases hc
    · exact hfields
  · rintro ⟨hop, hbad⟩
    cases hd : decode cmd din with
    | error c =>
      rcases decode_error_cases hd with ⟨_, hnot⟩ | ⟨rfl, _⟩
      · exact absurd hop hnot
      · rfl
    | ok i =>
      rcases decode_ok_cases hd with ⟨_, hw⟩ | ⟨_, hw⟩ | ⟨_, hw⟩ | ⟨_, hw⟩ <;> rw [hw] at hbad <;>
        simp [initWord, absorbWord, finalWord, squeezeWord] at hbad

/-! ### The fields and words as numbers -/

theorem toNat_opField (cmd : CmdWord) : (opField cmd).toNat = cmd.toNat / 4096 := by
  have := cmd.isLt
  simp only [opField, BitVec.extractLsb'_toNat, Nat.shiftRight_eq_div_pow]
  omega

theorem toNat_rsvField (cmd : CmdWord) : (rsvField cmd).toNat = cmd.toNat / 256 % 16 := by
  simp only [rsvField, BitVec.extractLsb'_toNat, Nat.shiftRight_eq_div_pow, Nat.reducePow]

theorem toNat_lenField (cmd : CmdWord) : (lenField cmd).toNat = cmd.toNat % 256 := by
  simp only [lenField, BitVec.extractLsb'_toNat, Nat.shiftRight_zero, Nat.reducePow]

/-- The legal opcodes are 1 to 4. -/
theorem opField_mem_iff (cmd : CmdWord) :
    opField cmd ∈ [1#4, 2#4, 3#4, 4#4] ↔ 1 ≤ cmd.toNat / 4096 ∧ cmd.toNat / 4096 ≤ 4 := by
  simp only [List.mem_cons, List.not_mem_nil, or_false, ← BitVec.toNat_inj, toNat_opField, BitVec.toNat_ofNat]
  omega

/-- Settles O5: the faults by their fields, the commands by their words, each read as a number. -/
theorem decodeIsTotalByFields : Obligations.DecodeIsTotalByFields := by
  intro cmd din
  have fault : ∀ c, decode cmd din = .error c → c = .illop ∨ c = .rsvd := fun c h =>
    (decode_error_cases h).imp And.left And.left
  refine ⟨?_, ?_, ?_, ?_, fun n => ?_, ?_, fun h => ?_, fun h => ?_⟩
  · rw [decode_eq_illop_iff, opField_mem_iff]
    omega
  · rw [decode_eq_rsvd_iff, opField_mem_iff]
    simp only [ne_eq, ← BitVec.toNat_inj, toNat_opField, toNat_rsvField, toNat_lenField, BitVec.toNat_ofNat,
      Nat.reducePow, Nat.reduceMod, Nat.zero_mod]
  · exact (decode_eq_ok_iff (decode_initWord din)).trans BitVec.toNat_inj.symm
  · exact (decode_eq_ok_iff (decode_absorbWord din)).trans BitVec.toNat_inj.symm
  · rw [decode_eq_ok_iff (decode_finalWord n din), ← BitVec.toNat_inj, toNat_finalWord]
  · exact (decode_eq_ok_iff (decode_squeezeWord din)).trans BitVec.toNat_inj.symm
  · exact absurd (fault _ h) (by decide)
  · exact absurd (fault _ h) (by decide)

/-- Settles O4: the commands' words by their own lemmas, the other words by their fields. -/
theorem decodeOfTableWords : Obligations.DecodeOfTableWords := fun din =>
  ⟨decode_initWord din, decode_absorbWord din, decode_finalWord 135#8 din, decode_finalWord 255#8 din,
    decode_squeezeWord din, decode_eq_illop_iff.mpr (by decide), decode_eq_illop_iff.mpr (by decide),
    decode_eq_rsvd_iff.mpr (by decide), decode_eq_rsvd_iff.mpr (by decide)⟩

/-! ### The legal words -/

/-- A word is legal exactly if it is the word of INIT, ABSORB, SQUEEZE, or FINAL with a length in range (R54). -/
theorem legalWord_iff_word (v : Nat) :
    legalWord v = true ↔ BitVec.ofNat 16 v = initWord ∨ BitVec.ofNat 16 v = absorbWord ∨
      (∃ n : BitVec 8, n.toNat ≤ 135 ∧ BitVec.ofNat 16 v = finalWord n) ∨ BitVec.ofNat 16 v = squeezeWord := by
  constructor
  · intro h
    unfold legalWord at h
    cases hd : decode (BitVec.ofNat 16 v) zeroBlock with
    | error c => simp [hd] at h
    | ok i =>
      rcases decode_ok_cases hd with ⟨_, hw⟩ | ⟨_, hw⟩ | ⟨rfl, hw⟩ | ⟨_, hw⟩
      · exact .inl hw
      · exact .inr (.inl hw)
      · exact .inr (.inr (.inl ⟨_, by simpa [hd] using h, hw⟩))
      · exact .inr (.inr (.inr hw))
  · rintro (hw | hw | ⟨n, hn, hw⟩ | hw) <;> rw [legalWord, hw]
    · rfl
    · rfl
    · simpa [decode_finalWord] using hn
    · rfl

/-- Which number below 65536 a word is. -/
theorem ofNat_eq_word_iff {v : Nat} (hv : v < 65536) (w : CmdWord) : BitVec.ofNat 16 v = w ↔ v = w.toNat := by
  rw [← BitVec.toNat_inj, BitVec.toNat_ofNat, Nat.mod_eq_of_lt hv]

/-- The numbers of FINAL's words with a length in range are the interval from 0x3000 to 0x3087. -/
theorem exists_finalWord_iff (v : Nat) :
    (∃ n : BitVec 8, n.toNat ≤ 135 ∧ v = (finalWord n).toNat) ↔ 0x3000 ≤ v ∧ v ≤ 0x3087 := by
  simp only [toNat_finalWord]
  constructor
  · rintro ⟨n, hn, rfl⟩
    omega
  · rintro ⟨hlo, hhi⟩
    exact ⟨BitVec.ofNat 8 (v - 0x3000), by rw [BitVec.toNat_ofNat]; omega, by rw [BitVec.toNat_ofNat]; omega⟩

/-- The legal words as numbers (R54). -/
theorem legalWord_iff {v : Nat} (hv : v < 65536) :
    legalWord v = true ↔ v = 0x1000 ∨ v = 0x2000 ∨ (0x3000 ≤ v ∧ v ≤ 0x3087) ∨ v = 0x4000 := by
  rw [legalWord_iff_word]
  simp only [ofNat_eq_word_iff hv]
  rw [exists_finalWord_iff]
  rfl

/-- The legal words as a set of 3 words and FINAL's 136. -/
theorem filter_legalWord :
    (Finset.range 65536).filter (fun v => legalWord v = true) =
      {0x1000, 0x2000, 0x4000} ∪ Finset.Icc 0x3000 0x3087 := by
  ext v
  simp only [Finset.mem_filter, Finset.mem_range, Finset.mem_union, Finset.mem_insert, Finset.mem_singleton,
    Finset.mem_Icc]
  constructor
  · rintro ⟨hv, h⟩
    have := (legalWord_iff hv).mp h
    omega
  · intro h
    have hv : v < 65536 := by omega
    exact ⟨hv, (legalWord_iff hv).mpr (by omega)⟩

/-- Settles O6: the list is `legalWord_iff`, and the three words lie outside FINAL's interval. -/
theorem exactlyOneHundredThirtyNineLegalWords : Obligations.ExactlyOneHundredThirtyNineLegalWords := by
  refine ⟨?_, fun v hv => legalWord_iff hv⟩
  have hdisj : Disjoint ({0x1000, 0x2000, 0x4000} : Finset Nat) (Finset.Icc 0x3000 0x3087) := by
    simp [Finset.disjoint_left]
  rw [filter_legalWord, Finset.card_union_of_disjoint hdisj, Nat.card_Icc]
  rfl

end Sys2Proof.Machine
end

section
/-! PROOF. The permutation (spec/40_permutation.md): rotations bit by bit, what each step mapping does lane by lane, where
the two tables come from, the rounds in their order, and why each step mapping is a bijection. -/

namespace Sys2Proof.Machine

/-! ### Rotations -/

/-- A rotation left by `n` moves bit `p` to bit `(p + n) mod 64` (spec/00_scope.md R8). -/
theorem getLsbD_rotateLeft_add_mod (v : Lane) (n : Nat) (p : Fin 64) :
    (v.rotateLeft n).getLsbD ((p.val + n) % 64) = v.getLsbD p.val := by
  rw [BitVec.getLsbD_rotateLeft]
  by_cases hwrap : (p.val + n) % 64 < n % 64
  · have hback : 64 - n % 64 + (p.val + n) % 64 = p.val := by omega
    simp only [hwrap, hback, decide_true, cond_true]
  · have hback : (p.val + n) % 64 - n % 64 = p.val := by omega
    have hlt : (p.val + n) % 64 < 64 := by omega
    simp only [hwrap, hback, hlt, decide_true, decide_false, cond_false, Bool.true_and]

theorem rotateLeft_injective (n : Nat) : Function.Injective fun v : Lane => v.rotateLeft n := by
  intro v w (h : v.rotateLeft n = w.rotateLeft n)
  apply BitVec.eq_of_getLsbD_eq
  intro p hp
  rw [← getLsbD_rotateLeft_add_mod v n ⟨p, hp⟩, h, getLsbD_rotateLeft_add_mod w n ⟨p, hp⟩]

theorem rotateLeft_xor (v w : Lane) (n : Nat) : (v ^^^ w).rotateLeft n = v.rotateLeft n ^^^ w.rotateLeft n := by
  apply BitVec.eq_of_getMsbD_eq
  intro i hi
  simp only [BitVec.getMsbD_rotateLeft, BitVec.getMsbD_xor, hi, decide_true, Bool.true_and]

theorem rotateLeft_rotateLeft (v : Lane) (m n : Nat) : (v.rotateLeft m).rotateLeft n = v.rotateLeft (m + n) := by
  apply BitVec.eq_of_getMsbD_eq
  intro i hi
  have hsum : (m + (n + i) % 64) % 64 = (m + n + i) % 64 := by omega
  simp [BitVec.getMsbD_rotateLeft, hi, hsum, Nat.mod_lt]

theorem rotateLeft_zero (v : Lane) : v.rotateLeft 0 = v := by
  apply BitVec.eq_of_getMsbD_eq
  intro i hi
  simp [BitVec.getMsbD_rotateLeft, hi, Nat.mod_eq_of_lt]

/-! ### The step mappings lane by lane -/

/-- Settles O15: the parities of R71 are the column parities of `thetaMix`. -/
theorem thetaXorsNeighbourParities : Obligations.ThetaXorsNeighbourParities :=
  fun s => ⟨thetaStep s.lanes, rfl, laneAt_thetaStep s.lanes⟩

/-- The offset of a lane is the table's entry at its linear index. -/
theorem rhoOffset_eq_getD (x y : Fin 5) : rhoOffset x y = rhoTable.toList.getD (x.val + 5 * y.val) 0 := by
  fin_cases x <;> fin_cases y <;> rfl

/-- Settles O16: RHO rotates each lane by its offset, and a rotation moves bit `p` up by the offset modulo 64. -/
theorem rhoRotatesByTheTable : Obligations.RhoRotatesByTheTable := by
  refine fun s => ⟨rhoStep s.lanes, rfl, fun x y p => ?_⟩
  have hmove := getLsbD_rotateLeft_add_mod (laneAt s.lanes x y) (rhoOffset x y) p
  rw [← laneAt_rhoStep, rhoOffset_eq_getD] at hmove
  exact hmove

/-- Settles O18: CHI's lane equation, read at one bit. -/
theorem chiMixesEachRow : Obligations.ChiMixesEachRow := by
  refine fun s => ⟨chiStep s.lanes, rfl, fun x y p => ?_⟩
  simp only [laneAt_chiStep, BitVec.getLsbD_xor, BitVec.getLsbD_and, BitVec.getLsbD_not, p.isLt, decide_true,
    Bool.true_and]

/-- The constant of a round stands in row `ir mod 12`, left up to round 11 and right after it (R77). -/
theorem roundConstant_eq_getD (ir : Fin 24) :
    roundConstant ir = (if ir.val < 12 then Prod.fst else Prod.snd) (rcRows.toList.getD (ir.val % 12) (0, 0)) := by
  fin_cases ir <;> rfl

/-- Settles O19: the origin by the table of R77, every other lane by IOTA's lane equation. -/
theorem iotaChangesOnlyTheOrigin : Obligations.IotaChangesOnlyTheOrigin := by
  refine fun ir s => ⟨iotaStep s.lanes ir, rfl, ?_, fun x y hxy => ?_⟩
  · rw [laneAt_iotaStep, if_pos ⟨rfl, rfl⟩, roundConstant_eq_getD]
    rfl
  · rw [laneAt_iotaStep, if_neg hxy]

/-! ### The walk of PI, and where the tables come from -/

/-- The walk visits each coordinate but the origin once (R81). -/
theorem rhoWalk_visits_once (x y : Fin 5) (h : ¬(x = 0 ∧ y = 0)) :
    ∃ t : Fin 24, rhoWalk t.val = (x, y) ∧ ∀ u : Fin 24, rhoWalk u.val = (x, y) → u = t := by
  revert x y
  decide

/-- Settles O23: the 25 offsets one by one, and the walk by `rhoWalk_visits_once`. -/
theorem rhoTableRegenerates : Obligations.RhoTableRegenerates :=
  ⟨rfl, by decide, rhoWalk_visits_once⟩

/-- Settles O24: the 24 constants one by one. -/
theorem roundConstantsRegenerate : Obligations.RoundConstantsRegenerate := by
  unfold Obligations.RoundConstantsRegenerate
  decide

/-- The lane that PI moves from `(x, y)` to `(y, 2x + 3y)`: 3 is the inverse of 2 modulo 5 (R74). -/
theorem laneAt_piStep_scatter (A : Lanes) (x y : Fin 5) : laneAt (piStep A) y (2 * x + 3 * y) = laneAt A x y := by
  have hsource : y + 3 * (2 * x + 3 * y) = x := by
    revert x y
    decide
  rw [laneAt_piStep, hsource]

/-- The linear index that PI's lane `j` comes from (R74's table SRC). -/
def piSource (j : Fin 25) : Nat := (colOf j + 3 * rowOf j).val + 5 * (colOf j).val

theorem getElem?_piStep (A : Lanes) (j : Fin 25) : (piStep A)[j.val]? = A[piSource j]? := by
  have hlt : piSource j < 25 := by unfold piSource; omega
  rw [Vector.getElem?_eq_getElem j.isLt, Vector.getElem?_eq_getElem hlt, getElem_eq_laneAt, laneAt_piStep]
  rfl

/-- Settles O17: the scatter and the gather are one map, SRC is its table, and the walk visits the other 24 coordinates
before it returns. -/
theorem piMovesEachLane : Obligations.PiMovesEachLane := by
  refine ⟨fun s => ⟨piStep s.lanes, rfl, laneAt_piStep_scatter s.lanes, laneAt_piStep s.lanes, fun j => ?_⟩,
    by decide, fun x y hxy => ?_, by decide⟩
  · rw [getElem?_piStep]
    congr 1
    revert j
    decide
  · obtain ⟨t, ht, -⟩ := rhoWalk_visits_once x y hxy
    exact ⟨t, ht⟩

/-! ### The round and PERMUTE -/

/-- Settles O20: each state is the one before with one step mapping applied to its lanes. -/
theorem roundIsItsFiveSteps : Obligations.RoundIsItsFiveSteps :=
  fun _ _ => ⟨_, _, _, _, _, rfl, rfl, rfl, rfl, rfl, rfl⟩

/-- PERMUTE's equation (R79). -/
theorem permute_eq_foldl (A : Lanes) : permute A = (List.finRange 24).foldl roundStep A := by
  unfold permute
  rfl

/-- The state after the first `n` rounds of PERMUTE. -/
def State.afterRounds (s : State) (n : Nat) : State :=
  s.setLanes (((List.finRange 24).take n).foldl roundStep s.lanes)

theorem State.afterRounds_succ (s : State) (ir : Fin 24) :
    s.afterRounds (ir.val + 1) =
      (s.afterRounds ir.val).setLanes (roundStep (s.afterRounds ir.val).lanes ir) := by
  have hlt : ir.val < (List.finRange 24).length := by simp
  have hround : (List.finRange 24)[ir.val] = ir := List.getElem_finRange hlt
  simp only [State.afterRounds, ← List.take_append_getElem hlt, hround, List.foldl_append, List.foldl_cons,
    List.foldl_nil]
  rfl

theorem State.afterRounds_all (s : State) : s.afterRounds 24 = s.setLanes (permute s.lanes) := by
  rw [permute_eq_foldl]
  rfl

/-- Settles O21: the states after the first 0 to 24 rounds. -/
theorem permuteIsTwentyFourRounds : Obligations.PermuteIsTwentyFourRounds := by
  refine fun s => ⟨s.afterRounds, rfl, fun ir => ?_, ?_⟩
  · rw [s.afterRounds_succ ir]
    rfl
  · rw [s.afterRounds_all]
    rfl

/-! ### THETA is injective

Two states with one image differ by `D` in every lane of a column, where `D` is how their mixing lanes differ. Then `D` is
a 5-cycle that THETA's mixing maps to itself, and squaring that relation six times removes the rotation and forces
`D = 0`. -/

/-- A word that stands in both halves of an XOR cancels. -/
theorem xor_cancel_middle (a b c : Lane) : (a ^^^ b) ^^^ (b ^^^ c) = a ^^^ c := by
  rw [BitVec.xor_assoc, ← BitVec.xor_assoc b, BitVec.xor_self, BitVec.zero_xor]

theorem xor_cancel_outer (a b : Lane) : (a ^^^ b) ^^^ a = b := by
  rw [BitVec.xor_comm a, BitVec.xor_assoc, BitVec.xor_self, BitVec.xor_zero]

/-- On a cycle of five lanes, rotating any lane by `n` gives the XOR of the lanes `a` and `2a` places before it. -/
def TurnsOver (D : Fin 5 → Lane) (n : Nat) (a : Fin 5) : Prop :=
  ∀ x, (D x).rotateLeft n = D (x - a) ^^^ D (x - a - a)

section Kernel
variable {D : Fin 5 → Lane}

/-- Squaring: the mixed terms cancel, so twice the rotation goes with twice the distances. -/
theorem TurnsOver.double {n : Nat} {a : Fin 5} (h : TurnsOver D n a) : TurnsOver D (n + n) (a + a) := by
  intro x
  calc (D x).rotateLeft (n + n)
      = ((D x).rotateLeft n).rotateLeft n := (rotateLeft_rotateLeft _ _ _).symm
    _ = (D (x - a)).rotateLeft n ^^^ (D (x - a - a)).rotateLeft n := by rw [h x, rotateLeft_xor]
    _ = (D (x - a - a) ^^^ D (x - a - a - a)) ^^^ (D (x - a - a - a) ^^^ D (x - a - a - a - a)) := by rw [h, h]
    _ = D (x - a - a) ^^^ D (x - a - a - a - a) := xor_cancel_middle _ _ _
    _ = D (x - (a + a)) ^^^ D (x - (a + a) - (a + a)) := by simp only [sub_sub, add_assoc]

/-- A rotation by 64 is none, and 64 places before is one place after, modulo 5. -/
theorem TurnsOver.eq_xor_next_two (h : TurnsOver D 1 1) (x : Fin 5) : D x = D (x + 1) ^^^ D (x + 2) := by
  have h64 : TurnsOver D 64 4 := h.double.double.double.double.double.double
  have hnext : ∀ x : Fin 5, x - 4 = x + 1 ∧ x + 1 - 4 = x + 2 := by decide
  obtain ⟨h1, h2⟩ := hnext x
  have hturn := h64 x
  rwa [h1, h2, ← BitVec.rotateLeft_mod_eq_rotateLeft, Nat.mod_self, rotateLeft_zero] at hturn

/-- On the 5-cycle that relation makes all lanes equal, hence zero. -/
theorem TurnsOver.eq_zero (h : TurnsOver D 1 1) (x : Fin 5) : D x = 0#64 := by
  have hrel := h.eq_xor_next_two
  have hindex : ∀ x : Fin 5, x + 1 + 1 = x + 2 ∧ x + 1 + 2 = x + 3 ∧ x + 3 + 3 = x + 1 := by decide
  have hthree : ∀ x, D x = D (x + 3) := by
    intro x
    obtain ⟨e1, e2, -⟩ := hindex x
    have hnext := hrel (x + 1)
    rw [e1, e2] at hnext
    rw [hrel x, hnext, xor_cancel_outer]
  have hone : ∀ x, D x = D (x + 1) := by
    intro x
    obtain ⟨-, -, e3⟩ := hindex x
    rw [hthree x, hthree (x + 3), e3]
  obtain ⟨e1, -, -⟩ := hindex x
  rw [hrel x, ← e1, ← hone (x + 1), BitVec.xor_self]

end Kernel

/-- What THETA's mixing lane of a column differs by in two states. -/
def thetaMixDiff (A B : Lanes) (x : Fin 5) : Lane := thetaMix A x ^^^ thetaMix B x

theorem thetaMixDiff_eq_columnParity (A B : Lanes) (x : Fin 5) :
    thetaMixDiff A B x = (columnParity A (x - 1) ^^^ columnParity B (x - 1)) ^^^
      (columnParity A (x + 1) ^^^ columnParity B (x + 1)).rotateLeft 1 := by
  rw [rotateLeft_xor]
  simp only [thetaMixDiff, thetaMix]
  ac_rfl

theorem columnParity_xor (A B : Lanes) (x : Fin 5) :
    columnParity A x ^^^ columnParity B x =
      (laneAt A x 0 ^^^ laneAt B x 0) ^^^ (laneAt A x 1 ^^^ laneAt B x 1) ^^^ (laneAt A x 2 ^^^ laneAt B x 2) ^^^
        (laneAt A x 3 ^^^ laneAt B x 3) ^^^ (laneAt A x 4 ^^^ laneAt B x 4) := by
  simp only [columnParity]
  ac_rfl

section ThetaEqual
variable {A B : Lanes} (h : thetaStep A = thetaStep B)
include h

/-- Two states with one image differ in each lane by the difference of the mixing lanes, in the whole column. -/
theorem laneAt_xor_eq_thetaMixDiff (x y : Fin 5) : laneAt A x y ^^^ laneAt B x y = thetaMixDiff A B x := by
  have hlane : laneAt A x y ^^^ thetaMix A x = laneAt B x y ^^^ thetaMix B x := by
    rw [← laneAt_thetaStep, ← laneAt_thetaStep, h]
  calc laneAt A x y ^^^ laneAt B x y
      = (laneAt A x y ^^^ thetaMix A x) ^^^ (thetaMix A x ^^^ laneAt B x y) := (xor_cancel_middle _ _ _).symm
    _ = (thetaMix A x ^^^ laneAt B x y) ^^^ (laneAt B x y ^^^ thetaMix B x) := by rw [hlane, BitVec.xor_comm]
    _ = thetaMixDiff A B x := xor_cancel_middle _ _ _

/-- Five equal lanes XOR to one of them, so the column parities differ by it too. -/
theorem columnParity_xor_eq_thetaMixDiff (x : Fin 5) :
    columnParity A x ^^^ columnParity B x = thetaMixDiff A B x := by
  rw [columnParity_xor]
  simp only [laneAt_xor_eq_thetaMixDiff h, BitVec.xor_self, BitVec.zero_xor]

theorem turnsOver_thetaMixDiff : TurnsOver (thetaMixDiff A B) 1 1 := by
  intro x
  have hmix := thetaMixDiff_eq_columnParity A B (x - 1)
  rw [columnParity_xor_eq_thetaMixDiff h, columnParity_xor_eq_thetaMixDiff h, sub_add_cancel] at hmix
  rw [hmix, xor_cancel_outer]

end ThetaEqual

theorem thetaStep_injective : Function.Injective thetaStep := by
  intro A B h
  refine lanes_ext fun x y => ?_
  have hzero := (turnsOver_thetaMixDiff h).eq_zero x
  rw [← laneAt_xor_eq_thetaMixDiff h x y] at hzero
  exact BitVec.xor_eq_zero_iff.mp hzero

/-! ### Every step mapping is a bijection -/

/-- There are finitely many states, so an injective map on them is bijective. -/
theorem bijective_of_injective {f : Lanes → Lanes} (hf : Function.Injective f) : Function.Bijective f := by
  have hword : Finite Lane := Finite.of_equiv _ BitVec.equivFin.symm.toEquiv
  have hlanes : Finite Lanes :=
    Finite.of_injective laneAt fun A B h => lanes_ext fun x y => congrFun (congrFun h x) y
  exact Finite.injective_iff_bijective.mp hf

theorem rhoStep_injective : Function.Injective rhoStep := by
  intro A B h
  refine lanes_ext fun x y => rotateLeft_injective (rhoOffset x y) ?_
  show (laneAt A x y).rotateLeft (rhoOffset x y) = (laneAt B x y).rotateLeft (rhoOffset x y)
  rw [← laneAt_rhoStep, ← laneAt_rhoStep, h]

theorem piStep_injective : Function.Injective piStep := by
  intro A B h
  refine lanes_ext fun x y => ?_
  rw [← laneAt_piStep_scatter A, ← laneAt_piStep_scatter B, h]

/-- CHI on one lane of a row, from the lane and the two after it (R75). -/
def chiLane (a b c : Lane) : Lane := a ^^^ (~~~b &&& c)

/-- CHI undone on one lane, from CHI's row: the lane and the four after it. -/
theorem chiLane_inverse (a b c d e : Lane) :
    chiLane a b c ^^^ (~~~(chiLane b c d) &&& (chiLane c d e ^^^ (~~~(chiLane d e a) &&& chiLane e a b))) = a := by
  have hbit : ∀ a b c d e : Bool, ((a ^^ (!b && c)) ^^
      (!(b ^^ (!c && d)) && ((c ^^ (!d && e)) ^^ (!(d ^^ (!e && a)) && (e ^^ (!a && b)))))) = a := by
    decide
  apply BitVec.eq_of_getLsbD_eq
  intro p hp
  simp only [chiLane, BitVec.getLsbD_xor, BitVec.getLsbD_and, BitVec.getLsbD_not, hp, decide_true, Bool.true_and]
  exact hbit _ _ _ _ _

/-- A lane before CHI, from its row after CHI. -/
def chiInverse (A : Lanes) (x y : Fin 5) : Lane :=
  laneAt A x y ^^^ (~~~(laneAt A (x + 1) y) &&&
    (laneAt A (x + 2) y ^^^ (~~~(laneAt A (x + 3) y) &&& laneAt A (x + 4) y)))

theorem chiInverse_chiStep (A : Lanes) (x y : Fin 5) : chiInverse (chiStep A) x y = laneAt A x y := by
  have hwrap : ∀ x : Fin 5, x + 1 + 1 = x + 2 ∧ x + 1 + 2 = x + 3 ∧ x + 2 + 1 = x + 3 ∧ x + 2 + 2 = x + 4 ∧
      x + 3 + 1 = x + 4 ∧ x + 3 + 2 = x ∧ x + 4 + 1 = x ∧ x + 4 + 2 = x + 1 := by decide
  simp only [chiInverse, laneAt_chiStep, hwrap x]
  exact chiLane_inverse _ _ _ _ _

theorem chiStep_injective : Function.Injective chiStep := by
  intro A B h
  refine lanes_ext fun x y => ?_
  rw [← chiInverse_chiStep A, ← chiInverse_chiStep B, h]

/-- IOTA undoes itself. -/
theorem iotaStep_involutive (ir : Fin 24) : Function.Involutive fun A => iotaStep A ir := by
  refine fun A => lanes_ext fun x y => ?_
  simp only [laneAt_iotaStep]
  split
  · rw [BitVec.xor_assoc, BitVec.xor_self, BitVec.xor_zero]
  · rfl

theorem roundStep_bijective (ir : Fin 24) : Function.Bijective fun A => roundStep A ir :=
  (iotaStep_involutive ir).bijective.comp <| (bijective_of_injective chiStep_injective).comp <|
    (bijective_of_injective piStep_injective).comp <| (bijective_of_injective rhoStep_injective).comp <|
      bijective_of_injective thetaStep_injective

theorem permute_bijective : Function.Bijective permute := by
  rw [funext permute_eq_foldl]
  exact foldl_bijective roundStep_bijective _

/-- Settles O22: the first four are injective on a finite set, IOTA is an involution, PERMUTE composes them. -/
theorem permutationIsABijection : Obligations.PermutationIsABijection :=
  ⟨bijective_of_injective thetaStep_injective, bijective_of_injective rhoStep_injective,
    bijective_of_injective piStep_injective, bijective_of_injective chiStep_injective,
    fun ir => (iotaStep_involutive ir).bijective, permute_bijective⟩

end Sys2Proof.Machine
end

section
/-! PROOF. The padder (spec/41_padding.md): PAD's block byte by byte and bit by bit, what it does not read, and the
padded stream of a message: its length, its commands, and why the message can be read back from it. -/

namespace Sys2Proof.Machine

/-! ### PAD's block -/

theorem exec_pad (n : Fin 136) (din : Block) (s : State) :
    exec (.pad n din) s = .next (s.setMicroResult (.block (padBlock din n.val))) := rfl

/-- PAD's XORs give the cases of R91; the two marks fall on one byte exactly if `n = 135`. -/
theorem getElem_padBlock_eq_paddedByte (din : Block) {n : Nat} (hn : n < 136) (i : Fin 136) :
    (padBlock din n)[i] = paddedByte din n i := by
  rw [Fin.getElem_fin, getElem_padBlock, paddedByte]
  rcases Nat.lt_trichotomy i.val n with hlt | heq | hgt
  · have hne : i.val ≠ n := by omega
    have hlast : i.val ≠ 135 := by omega
    simp [hlt, hne, hlast]
  · subst heq
    by_cases hlast : i.val = 135 <;> simp [hlast]
  · have hnlt : ¬ i.val < n := by omega
    have hne : i.val ≠ n := by omega
    simp [hnlt, hne]

/-- The bits of PAD's two marks: bit 0 of 0x01, bit 7 of 0x80, and both of 0x81. -/
theorem getLsbD_padMarks {b : Nat} (hb : b < 8) :
    (0x01#8).getLsbD b = decide (b = 0) ∧ (0x80#8).getLsbD b = decide (b = 7) ∧
      (0x81#8).getLsbD b = decide (b = 0 ∨ b = 7) := by
  interval_cases b <;> decide

/-- Bit `b` of byte `i` is at stream position `8i + b`: after the message 1 bits stand at `8n` and 1087 only (R94). -/
theorem getLsbD_paddedByte (din : Block) {n : Nat} (hn : n < 136) (i : Fin 136) {b : Nat} (hb : b < 8) :
    (paddedByte din n i).getLsbD b =
      if i.val < n then din[i].getLsbD b else decide (8 * i.val + b = 8 * n ∨ 8 * i.val + b = 1087) := by
  obtain ⟨h01, h80, h81⟩ := getLsbD_padMarks hb
  unfold paddedByte
  split_ifs
  · rfl
  · rw [h81, decide_eq_decide]; omega
  · rw [h01, decide_eq_decide]; omega
  · rw [h80, decide_eq_decide]; omega
  · rw [BitVec.getLsbD_zero, eq_comm, decide_eq_false_iff_not]; omega

/-- Settles O27: the bytes by R91's cases, and stream position `q` is bit `q % 8` of byte `q / 8`. -/
theorem padAppendsPadTenStarOne : Obligations.PadAppendsPadTenStarOne := by
  intro n din s
  have hbytes := getElem_padBlock_eq_paddedByte din n.isLt
  refine ⟨padBlock din n.val, exec_pad n din s, hbytes, fun q => ?_⟩
  have hbyte : q.val / 8 < 136 := by omega
  have hinside : q.val / 8 < n.val ↔ q.val < 8 * n.val := by omega
  have hbit := getLsbD_paddedByte din n.isLt ⟨q.val / 8, hbyte⟩ (Nat.mod_lt q.val (by decide : 8 > 0))
  rw [← hbytes] at hbit
  simpa only [Fin.getElem_fin, Nat.div_add_mod, hinside] using hbit

/-! ### The bytes after the count -/

/-- FINAL's effect depends on its block through PAD alone, also for a length that it refuses. -/
theorem finalCommand_congr {d e : Block} {len : BitVec 8} (h : ∀ i : Fin 136, i.val < len.toNat → d[i] = e[i])
    (s : State) : finalCommand len d s = finalCommand len e s := by
  have hperform : performFinal len d = performFinal len e := by
    funext t
    rw [performFinal, padBlock_congr h, performFinal]
  rw [finalCommand, hperform, finalCommand]

/-- Settles O28: PAD reads the first `n` bytes only, and FINAL reads its block through PAD. -/
theorem finalIgnoresBytesAfterLen : Obligations.FinalIgnoresBytesAfterLen := by
  refine fun d e s => ⟨fun n h => ?_, fun len h => ?_⟩
  · rw [exec_pad, exec_pad, padBlock_congr h]
  · exact congrArg Host.Outcome.next (finalCommand_congr h s)

/-! ### The padded stream's length -/

/-- The padding fills the free bytes. -/
theorem length_padBytes {r : Nat} (hr : 0 < r) : (padBytes r).length = r := by
  unfold padBytes
  split_ifs with h
  · exact h.symm
  · simp only [List.length_append, List.length_replicate, List.length_cons, List.length_nil]
    omega

theorem length_paddedStream (m : List Byte) : (paddedStream m).length = 136 * (m.length / 136 + 1) := by
  rw [paddedStream, List.length_append, length_padBytes (by omega)]
  omega

/-- HASH absorbs each full block and the padded one (spec/42_sponge.md R106). -/
theorem countP_absorbsBlock_hashCommands (fill : Block) (m : List Byte) :
    (hashCommands fill m).countP absorbsBlock = m.length / 136 + 1 := by
  have habsorbs : ((messageBlocks fill m).map Instr.absorb).countP absorbsBlock = m.length / 136 := by
    rw [List.countP_map]
    exact (List.countP_eq_length.mpr fun _ _ => rfl).trans (messageBlocks_length fill m)
  simp [hashCommands, List.countP_cons, habsorbs, absorbsBlock]

/-- Settles O29: any multiple of 136 above `L` is at least `136 * (L / 136 + 1)`. -/
theorem paddedStreamLength : Obligations.PaddedStreamLength := by
  intro fill m
  rw [length_paddedStream]
  refine ⟨rfl, by omega, ?_, countP_absorbsBlock_hashCommands fill m⟩
  rintro _ ⟨k, rfl⟩ hk
  omega

/-! ### Injectivity -/

/-- The start of the padding is the only byte of it with bit 0 set. -/
theorem padBytes_eq_cons (r : Nat) :
    ∃ c cs, padBytes r = c :: cs ∧ c.getLsbD 0 = true ∧ ∀ b ∈ cs, b.getLsbD 0 = false := by
  unfold padBytes
  split_ifs
  · exact ⟨0x81#8, [], rfl, rfl, by simp⟩
  · refine ⟨0x01#8, List.replicate (r - 2) 0x00#8 ++ [0x80#8], rfl, rfl, fun b hb => ?_⟩
    rcases List.mem_append.mp hb with hzero | hlast
    · rw [List.eq_of_mem_replicate hzero]; rfl
    · rw [List.mem_singleton.mp hlast]; rfl

/-- A padding is no proper suffix of a padding: its start would stand after the other's start. -/
theorem eq_nil_of_padBytes_eq_append {r r' : Nat} {x : List Byte} (h : padBytes r = x ++ padBytes r') : x = [] := by
  obtain ⟨c, cs, hr, -, hrest⟩ := padBytes_eq_cons r
  obtain ⟨c', cs', hr', hstart, -⟩ := padBytes_eq_cons r'
  rw [hr, hr'] at h
  cases x with
  | nil => rfl
  | cons y ys =>
    obtain ⟨-, rfl⟩ := List.cons.inj h
    have hclear : c'.getLsbD 0 = false := hrest c' (by simp)
    rw [hstart] at hclear
    cases hclear

/-- Settles O30: of two messages with one stream one continues the other by some `x`, and then one padding ends in the
other, so `x` is empty. -/
theorem paddingIsInjective : Obligations.PaddingIsInjective := by
  intro m m' h
  rcases List.append_eq_append_iff.mp h with ⟨x, hm, hpad⟩ | ⟨x, hm, hpad⟩ <;>
    rw [eq_nil_of_padBytes_eq_append hpad, List.append_nil] at hm
  · exact hm.symm
  · exact hm

end Sys2Proof.Machine
end

section
/-! PROOF. The four commands (spec/42_sponge.md): what each does where it is accepted, the fault of each cell of the
phase table, and the step that serves a command's word. -/

namespace Sys2Proof.Machine

/-! ### The commands' meanings -/

@[simp] theorem exec_init (s : State) : exec .init s = .next (initCommand s) := rfl
@[simp] theorem exec_absorb (din : Block) (s : State) : exec (.absorb din) s = .next (absorbCommand din s) := rfl
@[simp] theorem exec_final (len : BitVec 8) (din : Block) (s : State) :
    exec (.final len din) s = .next (finalCommand len din s) := rfl
@[simp] theorem exec_squeeze (s : State) : exec .squeeze s = .next (squeezeCommand s) := rfl

/-! ### Where they are accepted -/

/-- Settles O31. -/
theorem initZeroesTheLanes : Obligations.InitZeroesTheLanes := by
  intro s he
  refine ⟨zeroLanes, ?_, laneAt_zeroLanes⟩
  rw [exec_init, initCommand_performed he, performInit]

/-- Settles O32: the lanes that are permuted are XORIN's. -/
theorem absorbXorsAndPermutes : Obligations.AbsorbXorsAndPermutes := by
  intro din s he hp
  refine ⟨xorin s.lanes din, xoredInto_xorin s.lanes din, ?_⟩
  rw [exec_absorb, absorbCommand_performed din he hp, performAbsorb, absorbBlock]

/-- XORIN of PAD's block XORs in the bytes of R91. -/
theorem xoredInto_xorin_padBlock (A : Lanes) (din : Block) {n : Nat} (hn : n < 136) :
    XoredInto A (xorin A (padBlock din n)) (paddedByte din n) := by
  have hbytes : (fun i : Fin 136 => (padBlock din n)[i]) = paddedByte din n :=
    funext (getElem_padBlock_eq_paddedByte din hn)
  rw [← hbytes]
  exact xoredInto_xorin A (padBlock din n)

/-- Settles O33: the lanes that are permuted are XORIN's of PAD's block. -/
theorem finalPadsAndPermutes : Obligations.FinalPadsAndPermutes := by
  intro len din s he hp hl
  refine ⟨xorin s.lanes (padBlock din len.toNat), xoredInto_xorin_padBlock s.lanes din (by omega), ?_⟩
  rw [exec_final, finalCommand_performed len din he hp hl, performFinal, absorbBlock]

/-- Settles O34: `OUT` takes EXTRACT's bytes. -/
theorem squeezeDeliversTheDigest : Obligations.SqueezeDeliversTheDigest := by
  intro s he hp
  refine ⟨extract s.lanes, fun i => getElem_extract s.lanes i.val i.isLt, ?_⟩
  rw [exec_squeeze, squeezeCommand_performed he hp, performSqueeze]

/-! ### Where they fault -/

section Faulted
variable {s : State} (he : s.err = false)
include he

theorem absorbCommand_phase (din : Block) (hp : s.phase ≠ .absorbing) :
    absorbCommand din s = s.takeFault .phase absorbWord :=
  acceptCommand_phase he fun h => hp (List.mem_singleton.mp h)

theorem finalCommand_phase (len : BitVec 8) (din : Block) (hp : s.phase ≠ .absorbing) :
    finalCommand len din s = s.takeFault .phase (finalWord len) :=
  acceptCommand_phase he fun h => hp (List.mem_singleton.mp h)

theorem finalCommand_len {len : BitVec 8} (din : Block) (hp : s.phase = .absorbing) (hl : 135 < len.toNat) :
    finalCommand len din s = s.takeFault .len (finalWord len) :=
  acceptCommand_len he (List.mem_singleton.mpr hp) (decide_eq_false (Nat.not_le.mpr hl))

theorem squeezeCommand_phase (hp : s.phase ≠ .padded) : squeezeCommand s = s.takeFault .phase squeezeWord :=
  acceptCommand_phase he fun h => hp (List.mem_singleton.mp h)

end Faulted

theorem finalWord_eq_add (len : BitVec 8) : finalWord len = 0x3000#16 + len.setWidth 16 := by
  apply BitVec.eq_of_toNat_eq
  rw [toNat_finalWord, BitVec.toNat_add, BitVec.toNat_setWidth, BitVec.toNat_ofNat]
  omega

/-- Settles O35: the accepted cells by what each command performs, the others by the fault it takes. -/
theorem phaseTableOfTheCommands : Obligations.PhaseTableOfTheCommands := by
  intro s len din he
  simp only [exec_init, exec_absorb, exec_final, exec_squeeze, ← finalWord_eq_add]
  refine ⟨?_, fun hp => ?_, fun hp hl => ?_, fun hp => ?_, fun hp => ⟨?_, ?_⟩, fun hp hl => ?_, fun hp => ?_⟩
  · rw [initCommand_performed he]
    exact ⟨_, rfl, rfl, he⟩
  · rw [absorbCommand_performed din he hp]
    exact ⟨_, rfl, hp, he⟩
  · rw [finalCommand_performed len din he hp hl]
    exact ⟨_, rfl, rfl, he⟩
  · rw [squeezeCommand_performed he hp]
    exact ⟨_, rfl, rfl, he⟩
  · rw [absorbCommand_phase he din hp]
    rfl
  · rw [finalCommand_phase he len din hp]
    rfl
  · rw [finalCommand_len he din hp hl]
    rfl
  · rw [squeezeCommand_phase he hp]
    rfl

/-! ### The step that serves a command's word -/

/-- A decoded command executed while `err = 1` is dropped (spec/60_exceptions.md R147). -/
theorem exec_decoded_dropped {cmd : CmdWord} {din : Block} {i : Instr} {s : State} (hd : decode cmd din = .ok i)
    (he : s.err = true) : exec i s = .next s := by
  rcases exec_decoded_cases hd s with ⟨_, _, e⟩ | ⟨_, _, e⟩ | ⟨_, _, e⟩ | ⟨_, _, e⟩ <;>
    exact e.trans (congrArg Host.Outcome.next (acceptCommand_dropped he))

/-- Settles O8: while `err = 1` the step drops the word undecoded, and `exec` drops its command. -/
theorem stepRunsTheDecodedCommand : Obligations.StepRunsTheDecodedCommand := by
  intro s cmd din rs i hr hd
  change step s = exec i (s.setRequests rs)
  have hf : fetch s = receive cmd din (s.setRequests rs) := fetch_request hr
  cases he : s.err with
  | true =>
    have hdrop : exec i (s.setRequests rs) = .next (s.setRequests rs) := exec_decoded_dropped hd he
    rw [step_of_settled (hf.trans (receive_dropped cmd din he)), hdrop]
  | false => rw [step_of_run (hf.trans (receive_of_decode_ok he hd))]

end Sys2Proof.Machine
end

section
/-! PROOF. The engine and the rest of the state (spec/42_sponge.md R108, R109): an instruction acts on the engine
alone, so executing it beside another host side gives the same engine beside that host side. -/

namespace Sys2Proof.Machine

/-! ### One engine beside another host side -/

/-- The engine of `s` beside what `h` holds outside the engine. -/
def State.withHostOf (s h : State) : State :=
  { h with lanes := s.lanes, out := s.out, phase := s.phase, dv := s.dv, err := s.err, errCode := s.errCode,
           errCmd := s.errCmd }

theorem State.withHostOf_self (s : State) : s.withHostOf s = s := rfl

theorem sameEngine_withHostOf (s h : State) : SameEngine s (s.withHostOf h) := ⟨rfl, rfl, rfl, rfl, rfl, rfl, rfl⟩

theorem SameEngine.withHostOf_eq {s t : State} (h : SameEngine s t) : s.withHostOf t = t := by
  obtain ⟨hl, ho, hp, hd, he, hc, hw⟩ := h
  simp only [State.withHostOf, hl, ho, hp, hd, he, hc, hw]

/-- What is outside the engine has no part in the acceptance of a command that neither reads nor writes it. -/
theorem acceptCommand_withHostOf {perform : State → State}
    (hf : ∀ s h, perform (s.withHostOf h) = (perform s).withHostOf h) (allowed : List Phase) (lenOk : Bool)
    (word : CmdWord) (s h : State) :
    acceptCommand allowed lenOk word perform (s.withHostOf h) =
      (acceptCommand allowed lenOk word perform s).withHostOf h := by
  have herr : (s.withHostOf h).err = s.err := rfl
  have hphase : (s.withHostOf h).phase = s.phase := rfl
  simp only [acceptCommand, herr, hphase, hf]
  split_ifs <;> rfl

theorem initCommand_withHostOf (s h : State) : initCommand (s.withHostOf h) = (initCommand s).withHostOf h :=
  acceptCommand_withHostOf (fun _ _ => rfl) _ _ _ s h

theorem absorbCommand_withHostOf (din : Block) (s h : State) :
    absorbCommand din (s.withHostOf h) = (absorbCommand din s).withHostOf h :=
  acceptCommand_withHostOf (fun _ _ => rfl) _ _ _ s h

theorem finalCommand_withHostOf (len : BitVec 8) (din : Block) (s h : State) :
    finalCommand len din (s.withHostOf h) = (finalCommand len din s).withHostOf h :=
  acceptCommand_withHostOf (fun _ _ => rfl) _ _ _ s h

theorem squeezeCommand_withHostOf (s h : State) :
    squeezeCommand (s.withHostOf h) = (squeezeCommand s).withHostOf h :=
  acceptCommand_withHostOf (fun _ _ => rfl) _ _ _ s h

/-- The commands of HASH, one after the other (spec/43_oneshot.md R120). -/
theorem runHash_withHostOf (fill : Block) (m : List Byte) (s h : State) :
    runHash fill m (s.withHostOf h) = (runHash fill m s).withHostOf h := by
  have habsorbs (bs : List Block) (t : State) : bs.foldl (fun u b => absorbCommand b u) (t.withHostOf h) =
      (bs.foldl (fun u b => absorbCommand b u) t).withHostOf h :=
    List.foldl_hom (·.withHostOf h) fun u b => absorbCommand_withHostOf b u h
  rw [runHash, initCommand_withHostOf, habsorbs, finalCommand_withHostOf, squeezeCommand_withHostOf, runHash]

/-! ### What an instruction can touch -/

/-- The instructions whose result lands in `microResult` (log 7). -/
def WritesMicroResult (i : Instr) : Prop := (∃ n din, i = .pad n din) ∨ i = .extract

theorem WritesMicroResult.eq_setMicroResult {i : Instr} {s t : State} (hi : WritesMicroResult i)
    (hx : exec i s = .next t) : ∃ r, t = s.setMicroResult r := by
  rcases hi with ⟨n, din, rfl⟩ | rfl <;> cases hx <;> exact ⟨_, rfl⟩

/-- Every other instruction acts on the engine alone. -/
theorem exec_withHostOf {i : Instr} {s t : State} (hi : ¬ WritesMicroResult i) (hx : exec i s = .next t) (h : State) :
    exec i (s.withHostOf h) = .next (t.withHostOf h) := by
  cases i with
  | init => cases hx; rw [exec_init, initCommand_withHostOf]
  | absorb din => cases hx; rw [exec_absorb, absorbCommand_withHostOf]
  | final len din => cases hx; rw [exec_final, finalCommand_withHostOf]
  | squeeze => cases hx; rw [exec_squeeze, squeezeCommand_withHostOf]
  | theta | rho | pi | chi | iota _ | round _ | permute | xorin _ => cases hx; rfl
  | pad n din => exact absurd (.inl ⟨n, din, rfl⟩) hi
  | extract => exact absurd (.inr rfl) hi
  | hash arg =>
    match arg with
    | .bytes m => cases hx; exact congrArg Host.Outcome.next (runHash_withHostOf _ m s h)
    | .null 0 => cases hx; exact congrArg Host.Outcome.next (runHash_withHostOf _ [] s h)
    | .null (_ + 1) => cases hx

/-- Settles O43: the second state is the first one's engine beside another host side, and so is its next state. -/
theorem engineIsAFunctionOfEngineAndInstruction : Obligations.EngineIsAFunctionOfEngineAndInstruction := by
  intro i s t s' t' hst hs ht
  by_cases hi : WritesMicroResult i
  · obtain ⟨_, rfl⟩ := hi.eq_setMicroResult hs
    obtain ⟨_, rfl⟩ := hi.eq_setMicroResult ht
    exact hst
  · have hx := exec_withHostOf hi hs t
    rw [hst.withHostOf_eq, ht] at hx
    cases hx
    exact sameEngine_withHostOf s' t

/-- Settles O44: executed beside its own host side, an instruction gives the next engine beside that same host side. -/
theorem instructionsLeaveTheHostSideAlone : Obligations.InstructionsLeaveTheHostSideAlone := by
  intro i s t hx
  by_cases hi : WritesMicroResult i
  · obtain ⟨_, rfl⟩ := hi.eq_setMicroResult hx
    refine ⟨rfl, rfl, rfl, fun hpad hextract => ?_⟩
    rcases hi with ⟨n, din, e⟩ | e
    · exact absurd e (hpad n din)
    · exact absurd e hextract
  · have ht : t = t.withHostOf s := Host.Outcome.next.inj (hx.symm.trans (exec_withHostOf hi hx s))
    rw [ht]
    exact ⟨rfl, rfl, rfl, fun _ _ => rfl⟩

end Sys2Proof.Machine
end

section
/-! PROOF. The one-shot hash (spec/43_oneshot.md): the padded stream's blocks are those HASH absorbs, HASH's commands
leave Keccak256, and a run of requested commands is their execution one after the other. -/

namespace Sys2Proof.Machine

/-! ### The blocks of the message and of its padded stream -/

/-- A full block is read from the message alone, whatever follows the message. -/
theorem messageBlock_append (fill fill' : Block) (m x : List Byte) {j : Nat} (hj : j < fullBlocks m) :
    messageBlock fill (m ++ x) j = messageBlock fill' m j := by
  apply Vector.ext
  intro i hi
  have hin : 136 * j + i < m.length := by unfold fullBlocks at hj; omega
  have hin' : 136 * j + i < (m ++ x).length := by rw [List.length_append]; omega
  rw [getElem_messageBlock _ _ _ _ _ hin', getElem_messageBlock _ _ _ _ _ hin, List.getElem_append_left hin]

/-- The bytes after the message's end are in no full block (spec/43_oneshot.md R120). -/
theorem messageBlocks_fill (fill fill' : Block) (m : List Byte) : messageBlocks fill m = messageBlocks fill' m := by
  refine List.map_congr_left fun j hj => ?_
  rw [← messageBlock_append fill fill' m [] (List.mem_range.mp hj), List.append_nil]

/-- FINAL's count covers only bytes of the message. -/
theorem lastBlock_agrees (fill fill' : Block) (m : List Byte) (i : Fin 136) (hi : i.val < m.length % 136) :
    (messageBlock fill m (fullBlocks m))[i] = (messageBlock fill' m (fullBlocks m))[i] := by
  have hin : 136 * fullBlocks m + i.val < m.length := by unfold fullBlocks; omega
  rw [Fin.getElem_fin, Fin.getElem_fin, getElem_messageBlock _ _ _ _ _ hin, getElem_messageBlock _ _ _ _ _ hin]

/-- The padding's bytes are those of R91 from the count on. -/
theorem getElem?_padBytes (din : Block) {n : Nat} (i : Fin 136) (hi : n ≤ i.val) :
    (padBytes (136 - n))[i.val - n]? = some (paddedByte din n i) := by
  have hnlt : ¬ i.val < n := by omega
  unfold padBytes paddedByte
  by_cases hn : n = 135
  · have hlast : i.val = 135 := by omega
    simp [hn, hlast]
  · have hr : 136 - n ≠ 1 := by omega
    by_cases hstart : i.val = n
    · simp [hr, hn, hstart]
    · by_cases hlast : i.val = 135
      · have hpos : i.val - n = (136 - n - 2) + 1 := by omega
        have hend : n < 135 := by omega
        rw [hpos]
        simp [hr, hend.ne', hend.not_gt, hlast]
      · have hpos : i.val - n = (i.val - n - 1) + 1 := by omega
        have hzero : i.val - n - 1 < 136 - n - 2 := by omega
        rw [hpos]
        simp [hr, hnlt, hstart, hlast, hzero, List.getElem?_append]

/-- The stream's last block is PAD's of the message's rest. -/
theorem messageBlock_paddedStream_last (fill : Block) (m : List Byte) :
    messageBlock fill (paddedStream m) (fullBlocks m) =
      padBlock (messageBlock fill m (fullBlocks m)) (m.length % 136) := by
  apply Vector.ext
  intro i hi
  have hin : 136 * fullBlocks m + i < (paddedStream m).length := by rw [length_paddedStream, fullBlocks]; omega
  have hcount : m.length % 136 < 136 := by omega
  have hpad := getElem_padBlock_eq_paddedByte (messageBlock fill m (fullBlocks m)) hcount ⟨i, hi⟩
  rw [Fin.getElem_fin] at hpad
  rw [getElem_messageBlock _ _ _ _ _ hin, hpad]
  by_cases hmsg : i < m.length % 136
  · have hin' : 136 * fullBlocks m + i < m.length := by unfold fullBlocks; omega
    simp only [paddedStream, paddedByte, hmsg, ↓reduceIte, Fin.getElem_fin]
    rw [List.getElem_append_left hin', getElem_messageBlock _ _ _ _ _ hin']
  · have hafter : m.length ≤ 136 * fullBlocks m + i := by unfold fullBlocks; omega
    have hpos : 136 * fullBlocks m + i - m.length = i - m.length % 136 := by unfold fullBlocks; omega
    have hbyte := getElem?_padBytes (messageBlock fill m (fullBlocks m)) ⟨i, hi⟩ (Nat.le_of_not_lt hmsg)
    rw [← Option.some_inj, ← hbyte, ← List.getElem?_eq_getElem hin, paddedStream, List.getElem?_append_right hafter,
      hpos]

theorem messageBlocks_paddedStream (fill : Block) (m : List Byte) :
    messageBlocks fill (paddedStream m) =
      messageBlocks fill m ++ [padBlock (messageBlock fill m (fullBlocks m)) (m.length % 136)] := by
  have hcount : fullBlocks (paddedStream m) = fullBlocks m + 1 := by
    rw [fullBlocks, length_paddedStream, fullBlocks]; omega
  have hfull : (List.range (fullBlocks m)).map (messageBlock fill (paddedStream m)) = messageBlocks fill m :=
    List.map_congr_left fun _ hj => messageBlock_append fill fill m _ (List.mem_range.mp hj)
  rw [messageBlocks, hcount, List.range_succ, List.map_append, hfull, List.map_singleton,
    messageBlock_paddedStream_last]

/-- Settles O46: the stream's blocks are the message's full blocks and PAD's last one, absorbed in that order. -/
theorem keccakAbsorbsThePaddedStream : Obligations.KeccakAbsorbsThePaddedStream := by
  intro m
  rw [messageBlocks_paddedStream, absorbAll_append, keccak256]

/-- Settles O47: the empty message is one padded block, so the digest is one evaluation of PERMUTE. -/
theorem emptyMessageDigest : Obligations.EmptyMessageDigest := by
  unfold Obligations.EmptyMessageDigest
  decide +kernel

/-! ### HASH as one instruction -/

theorem exec_hash_bytes (m : List Byte) (s : State) : exec (.hash (.bytes m)) s = .next (runHash zeroBlock m s) := rfl

/-- Settles O49. -/
theorem nullBufferOnlyWithLengthZero : Obligations.NullBufferOnlyWithLengthZero := by
  refine fun s length => ⟨rfl, fun h => ?_⟩
  cases length with
  | zero => exact absurd rfl h
  | succ n => rfl

/-- The bytes after the message's end do not matter (spec/43_oneshot.md R120). -/
theorem runHash_fill (fill fill' : Block) (m : List Byte) (s : State) : runHash fill m s = runHash fill' m s := by
  rw [runHash, messageBlocks_fill fill fill',
    finalCommand_congr fun i hi => lastBlock_agrees fill fill' m i (tailLength_toNat m ▸ hi), runHash]

/-- ABSORBs from ABSORBING absorb their blocks in order. -/
theorem foldl_absorbCommand {s : State} (he : s.err = false) (hp : s.phase = .absorbing) (bs : List Block) :
    bs.foldl (fun t b => absorbCommand b t) s = s.setLanes (bs.foldl absorbBlock s.lanes) := by
  induction bs generalizing s with
  | nil => rfl
  | cons b bs ih =>
    rw [List.foldl_cons, absorbCommand_performed b he hp, ih (s := performAbsorb b s) he hp]
    rfl

/-- The lanes that Keccak256 reads its digest from (spec/43_oneshot.md R121). -/
def hashedLanes (m : List Byte) : Lanes :=
  absorbBlock (absorbAll (messageBlocks zeroBlock m))
    (padBlock (messageBlock zeroBlock m (fullBlocks m)) (m.length % 136))

theorem extract_hashedLanes (m : List Byte) : extract (hashedLanes m) = keccak256 m := rfl

/-- With no fault recorded each of HASH's commands is performed (spec/43_oneshot.md R122). -/
theorem runHash_performed {s : State} (m : List Byte) (he : s.err = false) :
    runHash zeroBlock m s =
      { s with lanes := hashedLanes m, out := keccak256 m, phase := .done, dv := true } := by
  have hlen : (tailLength m).toNat ≤ 135 := by rw [tailLength_toNat]; omega
  rw [runHash, initCommand_performed he, foldl_absorbCommand (s := performInit s) he rfl,
    finalCommand_performed (s := (performInit s).setLanes _) _ _ he rfl hlen,
    squeezeCommand_performed (s := performFinal _ _ ((performInit s).setLanes _)) he rfl, performSqueeze, performFinal,
    tailLength_toNat, ← extract_hashedLanes]
  rfl

/-! ### Runs of requested commands -/

/-- The instructions executed one after the other lead from one state to the other. -/
def Executes : List Instr → State → State → Prop
  | [], s, t => s = t
  | i :: is, s, t => ∃ u, exec i s = .next u ∧ Executes is u t

theorem Executes.append {is js : List Instr} {s u t : State} (hi : Executes is s u) (hj : Executes js u t) :
    Executes (is ++ js) s t := by
  induction is generalizing s with
  | nil => cases hi; exact hj
  | cons i is ih =>
    obtain ⟨v, hx, hv⟩ := hi
    exact ⟨v, hx, ih hv⟩

theorem executes_absorbs (bs : List Block) (s : State) :
    Executes (bs.map .absorb) s (bs.foldl (fun t b => absorbCommand b t) s) := by
  induction bs generalizing s with
  | nil => rfl
  | cons b bs ih => exact ⟨absorbCommand b s, rfl, ih _⟩

/-- HASH's commands, executed in order, are its run. -/
theorem executes_hashCommands (fill : Block) (m : List Byte) (s : State) :
    Executes (hashCommands fill m) s (runHash fill m s) :=
  Executes.append ⟨_, rfl, executes_absorbs _ _⟩ ⟨_, rfl, _, rfl, rfl⟩

theorem isCommand_of_mem_hashCommands {fill : Block} {m : List Byte} {i : Instr} (hi : i ∈ hashCommands fill m) :
    i.isCommand = true := by
  simp only [hashCommands, List.mem_append, List.mem_map, List.mem_cons, List.not_mem_nil, or_false] at hi
  rcases hi with (rfl | ⟨b, -, rfl⟩) | rfl | rfl <;> rfl

/-- A command is executed alike whatever the host has pending. -/
theorem exec_setRequests {i : Instr} {s t : State} (hi : i.isCommand = true) (hx : exec i s = .next t)
    (rs : List HostRequest) : exec i (s.setRequests rs) = .next (t.setRequests rs) := by
  have hmicro : ¬ WritesMicroResult i := by
    rintro (⟨n, din, rfl⟩ | rfl) <;> cases hi
  have ht : t = t.withHostOf s := Host.Outcome.next.inj (hx.symm.trans (exec_withHostOf hmicro hx s))
  rw [ht]
  exact exec_withHostOf hmicro hx (s.setRequests rs)

/-- The step that serves a requested command. -/
theorem step_requested {i : Instr} {is : List Instr} {s t : State} {rest : List HostRequest}
    (hi : i.isCommand = true) (hr : s.requests = requestsOf (i :: is) ++ rest)
    (hx : exec i (s.setRequests rest) = .next t) :
    step s = .next (t.setRequests (requestsOf is ++ rest)) := by
  obtain ⟨⟨w, din⟩, he⟩ := Option.isSome_iff_exists.mp ((isSome_encode i).trans hi)
  have hr' : s.requests = .command w din :: (requestsOf is ++ rest) := by
    rw [hr, requestsOf, List.filterMap_cons_some he]; rfl
  exact (stepRunsTheDecodedCommand s w din _ i hr' (decode_of_encode he)).trans (exec_setRequests hi hx _)

/-- The host that requests commands one by one, and runs as many steps, gets what executing them gives. -/
theorem run_requestsOf {is : List Instr} {s t : State} {rest : List HostRequest}
    (hcmd : ∀ i ∈ is, i.isCommand = true) (hr : s.requests = requestsOf is ++ rest)
    (hx : Executes is (s.setRequests rest) t) : Sys2Proof.core.run is.length s = .next t := by
  induction is generalizing s with
  | nil =>
    have hrest : s.setRequests rest = s := by rw [← show s.requests = rest from hr]; rfl
    exact congrArg Host.Outcome.next (hrest.symm.trans hx)
  | cons i is ih =>
    obtain ⟨u, hu, hrun⟩ := hx
    have hi : i.isCommand = true := hcmd i List.mem_cons_self
    rw [List.length_cons, core_run_succ _ (step_requested hi hr hu)]
    refine ih (fun j hj => hcmd j (List.mem_cons_of_mem i hj)) rfl ?_
    have hback : u.setRequests rest = u := Host.Outcome.next.inj ((exec_setRequests hi hu rest).symm.trans hu)
    rw [State.setRequests_setRequests, hback]
    exact hrun

theorem length_hashCommands (fill : Block) (m : List Byte) :
    (hashCommands fill m).length = m.length / 136 + 3 := by
  simp only [hashCommands, List.length_append, List.length_map, messageBlocks_length, List.length_cons,
    List.length_nil]
  omega

/-- The requests of HASH's commands run to what HASH gives, also where they are dropped (spec/43_oneshot.md R120). -/
theorem run_hashCommands {fill : Block} {m : List Byte} {s : State} {rest : List HostRequest}
    (hr : s.requests = requestsOf (hashCommands fill m) ++ rest) :
    Sys2Proof.core.run (m.length / 136 + 3) s = exec (.hash (.bytes m)) (s.setRequests rest) := by
  rw [← length_hashCommands fill m, exec_hash_bytes, runHash_fill zeroBlock fill]
  exact run_requestsOf (fun _ => isCommand_of_mem_hashCommands) hr (executes_hashCommands fill m _)

/-- Settles O48: the blocks are the message's, and the run is `run_hashCommands`. -/
theorem hashIsItsCommandSequence : Obligations.HashIsItsCommandSequence := by
  refine fun fill m => ⟨⟨messageBlock fill m, ?_, fun j i h => getElem_messageBlock fill m j i.val i.isLt h⟩,
    length_hashCommands fill m, fun s rest hr => run_hashCommands hr⟩
  rw [hashCommands, messageBlocks, List.map_map]
  rfl

/-- Settles O45: HASH's commands are all performed, and the run of their requests is HASH. -/
theorem hashLeavesTheKeccakDigest : Obligations.HashLeavesTheKeccakDigest := by
  intro m s he
  refine ⟨hashedLanes m, ?_, fun fill rest hr => ⟨_, ?_, rfl, ?_⟩⟩
  · rw [exec_hash_bytes, runHash_performed m he]
  · rw [run_hashCommands hr, exec_hash_bytes, runHash_performed (s := s.setRequests rest) m he]
    rfl
  · exact if_pos ⟨rfl, he⟩

end Sys2Proof.Machine
end

section
/-! PROOF. The command faults (spec/60_exceptions.md): a word that does not decode faults at its arrival, one that decodes
is accepted under its own phase and length checks, and while `err = 1` every word is dropped. -/

namespace Sys2Proof.Machine

/-! ### The step that serves a command word -/

/-- A word that does not decode faults with its own word recorded, and nothing is executed (R146). -/
theorem step_of_decode_error {s : State} {cmd : CmdWord} {din : Block} {rs : List HostRequest} {c : FaultCode}
    (hr : s.requests = .command cmd din :: rs) (he : s.err = false) (hd : decode cmd din = .error c) :
    step s = .next ((s.setRequests rs).takeFault c cmd) :=
  step_of_settled ((fetch_request hr).trans (receive_of_decode_error he hd))

/-- A word that arrives while `err = 1` is dropped, whether it decodes or not (R147). -/
theorem step_command_dropped {s : State} {cmd : CmdWord} {din : Block} {rs : List HostRequest}
    (hr : s.requests = .command cmd din :: rs) (he : s.err = true) : step s = .next (s.setRequests rs) :=
  step_of_settled ((fetch_request hr).trans (receive_dropped cmd din he))

/-! ### The first fault -/

/-- A word that fails neither ILLOP nor RSVD decodes. -/
theorem exists_decode_ok {cmd : CmdWord} {din : Block} (hillop : decode cmd din ≠ .error .illop)
    (hrsvd : decode cmd din ≠ .error .rsvd) : ∃ i, decode cmd din = .ok i := by
  cases hd : decode cmd din with
  | ok i => exact ⟨i, rfl⟩
  | error c =>
    rcases decode_error_cases hd with ⟨rfl, _⟩ | ⟨rfl, _⟩
    · exact absurd hd hillop
    · exact absurd hd hrsvd

/-- The PHASE check on the opcode as a number (R143): the command of `op` is not accepted in phase `p`. -/
abbrev PhaseForbids (op : Nat) (p : Phase) : Prop :=
  ((op = 2 ∨ op = 3) ∧ p ≠ .absorbing) ∨ (op = 4 ∧ p ≠ .padded)

/-- Executing a decoded word is its acceptance under that same word: PHASE and LEN are decided by the word's numeric
fields, and what is performed when both pass leaves the fault registers alone (R143, R144). -/
theorem exec_decoded_eq_acceptCommand {cmd : CmdWord} {din : Block} {i : Instr} (hd : decode cmd din = .ok i) :
    ∃ (allowed : List Phase) (lenOk : Bool) (perform : State → State),
      (∀ s, exec i s = .next (acceptCommand allowed lenOk cmd perform s)) ∧
      (∀ p, p ∉ allowed ↔ PhaseForbids (cmd.toNat / 4096) p) ∧
      (lenOk = false ↔ cmd.toNat / 4096 = 3 ∧ 135 < cmd.toNat % 256) ∧
      ∀ s, (perform s).err = s.err ∧ (perform s).errCode = s.errCode ∧ (perform s).errCmd = s.errCmd := by
  have keep {s : State} : s.err = s.err ∧ s.errCode = s.errCode ∧ s.errCmd = s.errCmd := ⟨rfl, rfl, rfl⟩
  rcases decode_ok_cases hd with ⟨rfl, rfl⟩ | ⟨rfl, rfl⟩ | ⟨hi, hw⟩ | ⟨rfl, rfl⟩
  · exact ⟨_, _, _, exec_init, fun p => by cases p <;> decide, by decide, fun _ => keep⟩
  · exact ⟨_, _, _, exec_absorb din, fun p => by cases p <;> decide, by decide, fun _ => keep⟩
  · generalize lenField cmd = len at hi hw
    subst hi hw
    have hop : (finalWord len).toNat / 4096 = 3 := by rw [toNat_finalWord]; omega
    have hlen : (finalWord len).toNat % 256 = len.toNat := by rw [toNat_finalWord]; omega
    rw [hop, hlen]
    refine ⟨_, _, _, exec_final len din, fun p => by cases p <;> decide, ?_, fun _ => keep⟩
    rw [finalLenOk, decide_eq_false_iff_not, Nat.not_le, and_iff_right rfl]
  · exact ⟨_, _, _, exec_squeeze, fun p => by cases p <;> decide, by decide, fun _ => keep⟩

/-- The step that serves a word that decodes: PHASE, then LEN, is checked, and if neither applies no fault is recorded
(R145). -/
theorem step_of_decode_ok {s : State} {cmd : CmdWord} {din : Block} {rs : List HostRequest} {i : Instr}
    (hr : s.requests = .command cmd din :: rs) (he : s.err = false) (hd : decode cmd din = .ok i) :
    if PhaseForbids (cmd.toNat / 4096) s.phase then step s = .next ((s.setRequests rs).takeFault .phase cmd)
    else if cmd.toNat / 4096 = 3 ∧ 135 < cmd.toNat % 256 then
      step s = .next ((s.setRequests rs).takeFault .len cmd)
    else ∃ t, step s = .next t ∧ t.err = false ∧ t.errCode = s.errCode ∧ t.errCmd = s.errCmd := by
  obtain ⟨allowed, lenOk, perform, hexec, hphase, hlen, hkeep⟩ := exec_decoded_eq_acceptCommand hd
  have hstep : step s = .next (acceptCommand allowed lenOk cmd perform (s.setRequests rs)) :=
    (stepRunsTheDecodedCommand s cmd din rs i hr hd).trans (hexec (s.setRequests rs))
  rw [hstep]
  rcases acceptCommand_cases allowed lenOk cmd perform (s.setRequests rs) with
    ⟨he', _⟩ | ⟨_, hp, e⟩ | ⟨_, hp, hl, e⟩ | ⟨_, hp, hl, e⟩
  · exact absurd (he.symm.trans he') Bool.false_ne_true
  · rw [if_pos ((hphase s.phase).mp hp), e]
  · rw [if_neg (mt (hphase s.phase).mpr (not_not.mpr hp)), if_pos (hlen.mp hl), e]
  · rw [if_neg (mt (hphase s.phase).mpr (not_not.mpr hp)), if_neg (mt hlen.mpr (ne_false_of_eq_true hl)), e]
    obtain ⟨herr, hcode, hcmd⟩ := hkeep (s.setRequests rs)
    exact ⟨_, rfl, herr.trans he, hcode, hcmd⟩

/-- Settles O36: ILLOP and RSVD are the decoder's faults, PHASE and LEN those of a word that decodes. -/
theorem firstFaultInOrderIsTaken : Obligations.FirstFaultInOrderIsTaken := by
  rintro s cmd din rs op rsv len hr he rfl rfl rfl
  obtain ⟨hillop, hrsvd, -⟩ := decodeIsTotalByFields cmd din
  split
  case isTrue h1 => exact step_of_decode_error hr he (hillop.mpr h1)
  case isFalse h1 =>
    split
    case isTrue h2 => exact step_of_decode_error hr he (hrsvd.mpr ⟨by omega, h2⟩)
    case isFalse h2 =>
      obtain ⟨i, hd⟩ := exists_decode_ok (mt hillop.mp h1) fun h => h2 (hrsvd.mp h).2
      exact step_of_decode_ok hr he hd

/-! ### A fault is final until reset -/

/-- While `err = 1` a run of commands, one a step, only takes their requests (R147). -/
theorem run_commands_dropped {s : State} {cs : List (CmdWord × Block)} {rest : List HostRequest} (he : s.err = true)
    (hr : s.requests = cs.map (fun c => .command c.1 c.2) ++ rest) :
    Sys2Proof.core.run cs.length s = .next (s.setRequests rest) := by
  induction cs generalizing s with
  | nil => rw [← show s.requests = rest from hr]; rfl
  | cons c cs ih =>
    rw [List.length_cons, core_run_succ _ (step_command_dropped hr he)]
    exact ih he rfl

/-- While `err = 1` a step that serves anything but a reset leaves the engine as it is (R147). -/
theorem step_sameEngine_of_faulted {s : State} {r : HostRequest} {rs : List HostRequest} (he : s.err = true)
    (hr : s.requests = r :: rs) (hreset : r.isReset = false) : ∃ t, step s = .next t ∧ SameEngine s t := by
  cases r with
  | command cmd din => exact ⟨_, step_command_dropped hr he, rfl, rfl, rfl, rfl, rfl, rfl, rfl⟩
  | readStatus => exact ⟨_, step_readStatus hr, rfl, rfl, rfl, rfl, rfl, rfl, rfl⟩
  | readOut => exact ⟨_, step_readOut hr, sameEngine_answerOut (s.setRequests rs)⟩
  | reset => cases hreset
  | resetDuring cmd din => cases hreset

/-- Settles O37. -/
theorem faultIsFinalForEveryCommandSequence : Obligations.FaultIsFinalForEveryCommandSequence :=
  ⟨fun _ _ _ => run_commands_dropped, fun _ _ _ => step_sameEngine_of_faulted⟩

end Sys2Proof.Machine
end

section
/-! PROOF. Reset and the order of requests (spec/70_reset_and_hazards.md): a reset is served from every state, and a step
takes the oldest request and no other. -/

namespace Sys2Proof.Machine

/-! ### Reset -/

/-- A step that serves a reset of either kind; the command that was executing leaves no trace (R160). -/
theorem step_reset {s : State} {r : HostRequest} {rs : List HostRequest} (hr : s.requests = r :: rs)
    (hreset : r.isReset = true) : step s = .next (s.setRequests rs).applyReset := by
  cases r with
  | reset | resetDuring cmd din => exact step_of_settled (fetch_request hr)
  | command cmd din | readStatus | readOut => cases hreset

/-- Settles O2: both resets give the reset of the state without its oldest request. -/
theorem resetRequestFromEveryState : Obligations.ResetRequestFromEveryState := by
  intro s r rs hr hreset
  refine ⟨(s.setRequests rs).applyReset, step_reset hr hreset, rfl, rfl, rfl, rfl, rfl, rfl, rfl, ?_⟩
  rintro _ cmd din rfl
  exact step_reset (r := .resetDuring cmd din) rfl rfl

/-! ### A step takes the oldest request -/

/-- Every word that decodes completes, whatever the state, and takes no further request (R165). -/
theorem exec_decoded_completes {cmd : CmdWord} {din : Block} {i : Instr} (hd : decode cmd din = .ok i) (s : State) :
    ∃ t, exec i s = .next t ∧ t.requests = s.requests := by
  have hnext : ∃ t, exec i s = .next t := by
    rcases exec_decoded_cases hd s with ⟨_, _, e⟩ | ⟨_, _, e⟩ | ⟨_, _, e⟩ | ⟨_, _, e⟩ <;> exact ⟨_, e⟩
  obtain ⟨t, e⟩ := hnext
  obtain ⟨hrequests, _⟩ := instructionsLeaveTheHostSideAlone i s t e
  exact ⟨t, e, hrequests⟩

/-- A read of OUT takes no further request. -/
theorem State.answerOut_requests (s : State) : s.answerOut.requests = s.requests := by
  rcases answerOut_cases s with ⟨_, e⟩ | ⟨_, d, e⟩ <;> rw [e] <;> rfl

/-- Settles O9: each way a step can serve a request ends in a next state without it. -/
theorem everyStepCompletesInOrder : Obligations.EveryStepCompletesInOrder := by
  intro s
  rcases step_cases s with ⟨hnone, e⟩ | ⟨r, rs, hr, hserved⟩
  · exact ⟨s, e, by rw [hnone, List.tail_nil], fun _ => rfl⟩
  · suffices h : ∃ t, step s = .next t ∧ t.requests = rs by
      obtain ⟨t, e, ht⟩ := h
      exact ⟨t, e, by rw [ht, hr, List.tail_cons], fun hnone => absurd (hr.symm.trans hnone) (List.cons_ne_nil r rs)⟩
    rcases hserved with ⟨_, _, _, _, e⟩ | ⟨_, _, _, _, _, _, e⟩ | ⟨_, _, i, _, _, hd, e⟩ | ⟨_, e⟩ | ⟨_, e⟩ | ⟨_, e⟩
    · exact ⟨_, e, rfl⟩
    · exact ⟨_, e, rfl⟩
    · rw [e]
      exact exec_decoded_completes hd (s.setRequests rs)
    · exact ⟨_, e, rfl⟩
    · exact ⟨_, e, State.answerOut_requests _⟩
    · exact ⟨_, e, rfl⟩

end Sys2Proof.Machine
end
